-- ==== Sys2Proof/Word.lean ====
section
/-! DEFINITION. The word types of the frame codec block: the widths of 10_state.md R21 to R28 and of the wire fields of 30_encoding.md R91. -/

namespace Sys2Proof

/-- Eight bits: a byte of a frame or of a buffer (00_scope.md R15). -/
abbrev Byte := BitVec 8

/-- Sixteen bits: the frame id, the payload length and the status (30_encoding.md R91). -/
abbrev Half := BitVec 16

/-- Seventeen bits: the length registers FLEN and PLEN (00_scope.md R11). -/
abbrev Length := BitVec 17

/-- Thirty-two bits: a register access and a CRC value (20_memory.md R66, 40_crc.md R120). -/
abbrev Word := BitVec 32

end Sys2Proof
end

