-- ==== Sys2Proof/Config.lean ====
section
/-! DEFINITION. What an implementation fixes: the sizes of 00_scope.md R9 and R11, the open parameters of R12 and R13, and the free values that unwritten buffer bytes hold (10_state.md R42). -/

namespace Sys2Proof

/-- The 32-bit CRC's open parameters `(poly, init, refin, refout, xorout)` of 00_scope.md R12; the width 32 is the source's. -/
structure CrcParams where
  poly   : Word
  init   : Word
  refin  : Bool
  refout : Bool
  xorout : Word
  deriving DecidableEq, Repr

/-- The default of 00_scope.md R12 and 40_crc.md R121. PRESUMED (the spec's own mark: from general knowledge), log 7. -/
def CrcParams.standard : CrcParams where
  poly   := 0x04C11DB7#32
  init   := 0xFFFFFFFF#32
  refin  := true
  refout := true
  xorout := 0xFFFFFFFF#32

/-- NACK_STATUS_OFFSET of 00_scope.md R13: the frame offset, 3 or 4, at which the surviving status byte stands. -/
inductive NackStatusOffset where
  | three
  | four
  deriving DecidableEq, Repr

/-- The offset as a number. -/
def NackStatusOffset.toNat : NackStatusOffset → Nat
  | .three => 3
  | .four  => 4

/-- The block's parameters: configuration that does not change while the block runs (10_state.md R20). -/
structure Config where
  crc              : CrcParams
  nackStatusOffset : NackStatusOffset
  deriving DecidableEq, Repr

/-- Every parameter at its default (00_scope.md R12, R13); logs 7 and 8. -/
def Config.default : Config where
  crc              := CrcParams.standard
  nackStatusOffset := .four

/-- `HDR_LEN` of 00_scope.md R9. -/
abbrev hdrLen : Nat := 5

/-- `TRL_LEN` of 00_scope.md R9. -/
abbrev trlLen : Nat := 4

/-- `MIN_FRAME` of 00_scope.md R9. -/
abbrev minFrame : Nat := 9

/-- `MAX_PAYLOAD` of 00_scope.md R9. -/
abbrev maxPayload : Nat := 65535

/-- `FB_CAP` of 00_scope.md R11, equal to `MAX_FRAME` of R9. -/
abbrev fbCap : Nat := 65544

/-- `PB_CAP` of 00_scope.md R11. -/
abbrev pbCap : Nat := 65535

/-- Free value: the byte that index `i` of FB holds after the `epoch`-th hardware reset until it is written (10_state.md R42: "some byte value, the same on every read until it is written"); log 5. -/
opaque Config.fbUnwritten (epoch i : Nat) : Byte

/-- Free value: the byte that index `i` of PB holds after the `epoch`-th hardware reset until it is written (10_state.md R42); log 5. -/
opaque Config.pbUnwritten (epoch i : Nat) : Byte

end Sys2Proof
end

