-- ==== Sys2Proof/Machine/Crc.lean ====
section
/-! DEFINITION. The CRC-32 function of 40_crc.md: the parameterised form (R120) and the right-shifting form of the default parameters (R121). -/

namespace Sys2Proof.Machine

/-- `reverse8` of 40_crc.md R120: bit 7 and bit 0 exchanged, bit 6 and bit 1, and so on. -/
def reverse8 (b : Byte) : Byte := b.reverse

/-- `reverse32` of 40_crc.md R120. -/
def reverse32 (w : Word) : Word := w.reverse

/-- One of the eight rounds of 40_crc.md R120: shift left modulo 2^32, and exclusive-or with `poly` when bit 31 was 1. -/
def crcRound (poly reg : Word) : Word :=
  if reg.getLsbD 31 then (reg <<< 1) ^^^ poly else reg <<< 1

/-- The effect of one message byte on the CRC register (40_crc.md R120). -/
def crcByte (p : CrcParams) (reg : Word) (b : Byte) : Word :=
  let b := if p.refin then reverse8 b else b
  (crcRound p.poly)^[8] (reg ^^^ (b.setWidth 32 <<< 24))

/-- `crc32(s)` of 40_crc.md R120, over the parameter record of 00_scope.md R12. -/
def crc32 (p : CrcParams) (s : List Byte) : Word :=
  let reg := s.foldl (crcByte p) p.init
  (if p.refout then reverse32 reg else reg) ^^^ p.xorout

/-- One of the eight rounds of the right-shifting form (40_crc.md R121). -/
def crcRoundRight (c : Word) : Word :=
  if c.getLsbD 0 then (c >>> 1) ^^^ 0xEDB88320#32 else c >>> 1

/-- The effect of one message byte in the right-shifting form (40_crc.md R121). -/
def crcByteRight (c : Word) (b : Byte) : Word :=
  crcRoundRight^[8] (c ^^^ b.setWidth 32)

/-- The right-shifting form of `crc32` for the default parameters (40_crc.md R121). -/
def crc32Right (s : List Byte) : Word :=
  s.foldl crcByteRight 0xFFFFFFFF#32 ^^^ 0xFFFFFFFF#32

end Sys2Proof.Machine
end

