-- ==== Sys2Proof/Syntax.lean ====
section
/-! DEFINITION. The block's syntax: the thirteen rows of the opcode table (ten commands, three frame kinds), the registers, the buffers and the accesses of the host port. -/

namespace Sys2Proof

/-- The opcode table's rows. The ten commands have no operand field (30_encoding.md R100); a frame kind carries the fields that its step of the receive-loop extracts (44_classify.md R163). -/
inductive Instr where
  | encData                                        -- ENC_DATA, 41_encode.md R130
  | encAck                                         -- ENC_ACK, R132
  | encNack                                        -- ENC_NACK, R133
  | decType                                        -- DEC_TYPE, 42_decode.md R140
  | decId                                          -- DEC_ID, R141
  | decPayload                                     -- DEC_PAYLOAD, R142
  | decStatus                                      -- DEC_STATUS, R143
  | check                                          -- CHECK, 43_check.md R150
  | classify                                       -- CLASSIFY, 44_classify.md R160
  | srst                                           -- SRST, 45_control.md R180
  | data (id : Half) (payload : List Byte)         -- frame kind DATA, 30_encoding.md R92
  | ack (id : Half)                                -- frame kind ACK
  | nack (id : Half) (status : Half)               -- frame kind NACK
  deriving DecidableEq, Repr

/-- The fields a received frame gives the classifier, by kind (44_classify.md R163). -/
inductive Frame where
  | data (id : Half) (payload : List Byte)
  | ack (id : Half)
  | nack (id : Half) (status : Half)
  deriving DecidableEq, Repr

/-- The opcode table's row of a frame kind, with the frame's fields. -/
def Frame.toInstr : Frame → Instr
  | .data id payload => .data id payload
  | .ack id          => .ack id
  | .nack id status  => .nack id status

/-- What a decoder is given: a value written to CMD (30_encoding.md R100) or the bytes of a received frame, offset 0 first (R90). The two encodings are read in different places and never compete. -/
inductive Code where
  | command (w : Word)
  | frame (bytes : List Byte)
  deriving DecidableEq, Repr

/-- Why received bytes give the classifier no frame (44_classify.md R162, R163). -/
inductive FrameError where
  | unknownType    -- a type byte of 3 to 255 (30_encoding.md R96)
  | truncated      -- a field the frame's kind needs lies at or beyond the end of the bytes
  deriving DecidableEq, Repr

/-- Why a code is no instruction. -/
inductive DecodeError where
  | reservedCode              -- a CMD write whose code is 0x00 or 0x0B to 0xFF (30_encoding.md R101)
  | frame (e : FrameError)    -- received bytes that are no frame
  deriving DecidableEq, Repr

/-- The thirteen registers (10_state.md R20). -/
inductive Reg where
  | cmd | ctrl | status | err | evt | txid | txstatus | rtype | rid | rstatus | crccalc | flen | plen
  deriving DecidableEq, Repr

/-- The two byte buffers (10_state.md R36, R37). -/
inductive Buf where
  | fb | pb
  deriving DecidableEq, Repr

/-- What can arrive at the block from outside: an access on the host port, `bits` wide at a byte offset from the window's base (20_memory.md R66, R70), or the hardware reset (70_reset_and_hazards.md R290). An 8-bit write stores `value`'s low byte. -/
inductive PortEvent where
  | read (bits : Nat) (offset : Word)
  | write (bits : Nat) (offset : Word) (value : Word)
  | hardReset
  deriving DecidableEq, Repr

end Sys2Proof
end

