-- ==== Sys2Proof/WellFormed.lean ====
section
/-! DEFINITION. Which terms of `Instr` are instructions: the 16-bit length field declares at most 65535 payload bytes (00_scope.md R9). -/

namespace Sys2Proof

/-- A DATA frame's payload has at most `MAX_PAYLOAD` bytes (00_scope.md R9); every other row has no operand that could be out of range. -/
def Instr.wellFormed : Instr → Bool
  | .data _ payload => decide (payload.length ≤ maxPayload)
  | .encData | .encAck | .encNack | .decType | .decId | .decPayload | .decStatus | .check | .classify | .srst => true
  | .ack _ | .nack _ _ => true

end Sys2Proof
end

