-- ==== Sys2Proof/Decode.lean ====
section
/-! DEFINITION. The decoder of the two encodings (command codes, 30_encoding.md R100; frames, R90 to R93), total on any input and rejecting by name, and the encoder, written from the same tables. -/

namespace Sys2Proof

/-- `be16`: two bytes, the more significant first (00_scope.md R16, 20_memory.md R60). -/
def be16 (hi lo : Byte) : Half := hi ++ lo

/-- `bytes_be16` (00_scope.md R16). -/
def bytesBe16 (v : Half) : List Byte := [v.extractLsb' 8 8, v.extractLsb' 0 8]

/-- `le32`: four bytes, the least significant first (00_scope.md R16, 20_memory.md R61). -/
def le32 (b0 b1 b2 b3 : Byte) : Word := b3 ++ b2 ++ b1 ++ b0

/-- `bytes_le32` (00_scope.md R16, 20_memory.md R61). -/
def bytesLe32 (v : Word) : List Byte :=
  [v.extractLsb' 0 8, v.extractLsb' 8 8, v.extractLsb' 16 8, v.extractLsb' 24 8]

/-- The command a write to CMD starts: bits [7:0] are the code, bits [31:8] are ignored (30_encoding.md R100); codes 0x00 and 0x0B to 0xFF are reserved (R101). -/
def decodeCommand (w : Word) : Except DecodeError Instr :=
  match (w.setWidth 8).toNat with
  | 0x01 => .ok .encData
  | 0x02 => .ok .encAck
  | 0x03 => .ok .encNack
  | 0x04 => .ok .decType
  | 0x05 => .ok .decId
  | 0x06 => .ok .decPayload
  | 0x07 => .ok .decStatus
  | 0x08 => .ok .check
  | 0x09 => .ok .classify
  | 0x0A => .ok .srst
  | _    => .error .reservedCode

/-- The fields of a DATA frame after its type byte: id, declared length, that many payload bytes (44_classify.md R163, classify_data). The trailer and anything after the payload are not read. -/
def decodeDataFields : List Byte → Except FrameError Frame
  | i1 :: i0 :: l1 :: l0 :: rest =>
    if (be16 l1 l0).toNat ≤ rest.length then .ok (.data (be16 i1 i0) (rest.take (be16 l1 l0).toNat))
    else .error .truncated
  | _ => .error .truncated

/-- The fields of an ACK frame after its type byte: the id; nothing else is read (44_classify.md R163, classify_ack). -/
def decodeAckFields : List Byte → Except FrameError Frame
  | i1 :: i0 :: _ => .ok (.ack (be16 i1 i0))
  | _ => .error .truncated

/-- The fields of a NACK frame after its type byte: id and status, the status at the length field's offset (44_classify.md R163, classify_nack; 30_encoding.md R93). -/
def decodeNackFields : List Byte → Except FrameError Frame
  | i1 :: i0 :: s1 :: s0 :: _ => .ok (.nack (be16 i1 i0) (be16 s1 s0))
  | _ => .error .truncated

/-- The frame kind and fields of received bytes, selected by the type byte alone (44_classify.md R162, R163; 30_encoding.md R92, R96). -/
def decodeFrame : List Byte → Except FrameError Frame
  | [] => .error .truncated
  | t :: rest =>
    match t.toNat with
    | 0 => decodeDataFields rest
    | 1 => decodeAckFields rest
    | 2 => decodeNackFields rest
    | _ => .error .unknownType

/-- The decoder, total on every code. -/
def decode : Code → Except DecodeError Instr
  | .command w     => decodeCommand w
  | .frame bytes   =>
    match decodeFrame bytes with
    | .ok f    => .ok f.toInstr
    | .error e => .error (.frame e)

/-- The covered bytes of a frame: type, id, length field, payload (30_encoding.md R90, 40_crc.md R123). -/
def frameCovered (type : Byte) (id lengthField : Half) (payload : List Byte) : List Byte :=
  type :: (bytesBe16 id ++ bytesBe16 lengthField ++ payload)

/-- A frame's covered bytes with the little-endian CRC trailer behind them (20_memory.md R61, 40_crc.md R123). -/
def withTrailer (p : CrcParams) (covered : List Byte) : List Byte :=
  covered ++ bytesLe32 (Machine.crc32 p covered)

/-- The encoder: a command's 32-bit value with its ignored bits 0 (30_encoding.md R100), a frame's bytes (R90 to R93). An ACK's length field is 0 and a NACK's holds the status (R92). -/
def encode (p : CrcParams) : Instr → Code
  | .encData         => .command 0x01#32
  | .encAck          => .command 0x02#32
  | .encNack         => .command 0x03#32
  | .decType         => .command 0x04#32
  | .decId           => .command 0x05#32
  | .decPayload      => .command 0x06#32
  | .decStatus       => .command 0x07#32
  | .check           => .command 0x08#32
  | .classify        => .command 0x09#32
  | .srst            => .command 0x0A#32
  | .data id payload => .frame (withTrailer p (frameCovered 0x00#8 id (BitVec.ofNat 16 payload.length) payload))
  | .ack id          => .frame (withTrailer p (frameCovered 0x01#8 id 0#16 []))
  | .nack id status  => .frame (withTrailer p (frameCovered 0x02#8 id status []))

/-- Whether a table word of `nbits` bits is read as a frame's first byte: the table gives a frame kind 8 bits, a legal type byte (30_encoding.md R92), and a command 32 (R100); log 11. -/
def isFrameWord (nbits w : Nat) : Bool := nbits ≤ 8 && w < 3

/-- The nine bytes a frame-kind table word stands for: its type byte, and 0 in every byte above it; log 11. -/
def tableFrameBytes (w : Nat) : List Byte := BitVec.ofNat 8 w :: List.replicate 8 0#8

/-- The instruction the decoder reads from a row of spec/opcode_table.json whose bits are `w`; log 11. -/
def decodeTableWord (nbits w : Nat) : Option Instr :=
  (decode (if isFrameWord nbits w then .frame (tableFrameBytes w) else .command (BitVec.ofNat 32 w))).toOption

end Sys2Proof
end

