-- ==== Sys2Proof/Machine/State.lean ====
section
/-! DEFINITION. The state of the frame codec block as plain data (10_state.md R20), its reset value (R42), and the names of the ways a step can stop. -/

namespace Sys2Proof.Machine

/-- A buffer's contents: the bytes written since the last hardware reset, as (index, byte) pairs in strictly rising order. An index that is not listed holds no written byte: see `Memory.read`. -/
abbrev Memory := List Host.Cell

/-- The registers of 10_state.md R21 to R34 at the width of their live bits. CMD "holds no value" (R30) and so has no field (log 13); reserved bits read 0 and are not stored. -/
structure Registers where
  ctrl     : BitVec 2     -- CHKEN bit 0, FATALEN bit 1 (R31)
  status   : BitVec 1     -- HALT bit 0 (R32)
  err      : BitVec 8     -- R33
  evt      : BitVec 4     -- KIND [1:0], VALID bit 2, ACKREQ bit 3 (R34)
  txid     : BitVec 16    -- R21
  txstatus : BitVec 32    -- R22
  rtype    : BitVec 8     -- R23
  rid      : BitVec 16    -- R24
  rstatus  : BitVec 16    -- R25
  crccalc  : BitVec 32    -- R26
  flen     : BitVec 17    -- R27
  plen     : BitVec 17    -- R28
  deriving DecidableEq, Repr

/-- The registers after reset (10_state.md R42). -/
def Registers.reset : Registers where
  ctrl     := 3#2
  status   := 0#1
  err      := 0#8
  evt      := 0#4
  txid     := 0#16
  txstatus := 0#32
  rtype    := 0#8
  rid      := 0#16
  rstatus  := 0#16
  crccalc  := 0#32
  flen     := 0#17
  plen     := 0#17

/-- What a served access returned to the host: nothing (a write), a 32-bit register value, or a buffer byte (20_memory.md R63, R72); log 9. -/
inductive Answer where
  | silent
  | word (v : Word)
  | byte (b : Byte)
  deriving DecidableEq, Repr

/-- The whole state. `regs`, `fb` and `pb` are the spec's (10_state.md R20); `epoch`, `cfg`, `port` and `answer` are the model's own (logs 1, 5, 7, 8, 9). -/
structure State where
  regs   : Registers
  fb     : Memory            -- the frame buffer (R36)
  pb     : Memory            -- the payload buffer (R37)
  epoch  : Nat               -- index of the free values that unwritten bytes hold
  cfg    : Config            -- the block's parameters; no step changes them
  port   : List PortEvent    -- accesses that have arrived and are not yet served, oldest first
  answer : Answer            -- data returned by the access served last
  deriving DecidableEq, Repr

/-- Ways the machine stops with a fault. -/
inductive Fault where
  /-- Raised by the port for an access whose offset is not below 2^18: it lies outside the block's window (20_memory.md R70). Safe: the run stops where the spec gives the block no part in the access; log 4. -/
  | outsideWindow
  deriving DecidableEq, Repr

/-- Ways a step has no meaning. -/
inductive Refusal where
  /-- Raised by `exec`'s arm of an instruction that has no meaning yet; none is left. Safe. -/
  | notModelled (mnemonic : String)
  /-- Raised by the port for an access to an offset of the window that R70 leaves unmapped (20_memory.md R71). Safe: the spec gives it no meaning; log 3. -/
  | unmappedOffset
  /-- Raised by the port for a register access that is not 32 bits wide or a buffer access that is not 8 bits wide (20_memory.md R66). Safe; log 3. -/
  | wrongWidth
  /-- Raised by the port for a 32-bit register access at an offset that is not a multiple of 4 (20_memory.md R66). Safe; log 3. -/
  | misaligned
  /-- Raised by the meaning of DATA for a term that no frame decodes to: more than 65535 payload bytes (00_scope.md R9). Safe: no step meets it; log 12. -/
  | payloadExceedsField
  deriving DecidableEq, Repr

/-- The machine right after reset (10_state.md R42, 70_reset_and_hazards.md R290): registers at their reset values, no buffer byte written, nothing on the port. -/
def State.reset : State where
  regs   := Registers.reset
  fb     := []
  pb     := []
  epoch  := 0
  cfg    := Config.default
  port   := []
  answer := .silent

end Sys2Proof.Machine
end

