-- ==== Sys2Proof/Machine/Flags.lean ====
section
/-! DEFINITION. The block's flags and codes: the result codes of ERR (60_exceptions.md R250), the mode bits of CTRL (10_state.md R31), STATUS.HALT (R32) and the events of EVT (R34). -/

namespace Sys2Proof.Machine

/-- The ten result codes of 60_exceptions.md R250. -/
inductive ErrCode where
  | ok | tooShort | badType | lengthMismatch | checksumMismatch | truncated | payloadTooLong | unknownType | halted | badOp
  deriving DecidableEq, Repr

/-- The number of a result code in ERR (60_exceptions.md R250). -/
def ErrCode.code : ErrCode → Byte
  | .ok               => 0#8
  | .tooShort         => 1#8
  | .badType          => 2#8
  | .lengthMismatch   => 3#8
  | .checksumMismatch => 4#8
  | .truncated        => 5#8
  | .payloadTooLong   => 6#8
  | .unknownType      => 7#8
  | .halted           => 8#8
  | .badOp            => 9#8

/-- CTRL bit 0, CHKEN (10_state.md R31). -/
def State.chken (s : State) : Bool := s.regs.ctrl.getLsbD 0

/-- CTRL bit 1, FATALEN (10_state.md R31). -/
def State.fatalen (s : State) : Bool := s.regs.ctrl.getLsbD 1

/-- STATUS bit 0, HALT (10_state.md R32). -/
def State.halt (s : State) : Bool := s.regs.status.getLsbD 0

/-- EVT bits [1:0], KIND (10_state.md R34). -/
def State.evtKind (s : State) : BitVec 2 := s.regs.evt.extractLsb' 0 2

/-- EVT bit 2, VALID (10_state.md R34). -/
def State.evtValid (s : State) : Bool := s.regs.evt.getLsbD 2

/-- EVT bit 3, ACKREQ (10_state.md R34). -/
def State.evtAckreq (s : State) : Bool := s.regs.evt.getLsbD 3

/-- EVT's value when the last CLASSIFY reported no frame (10_state.md R34). -/
def evtNone : BitVec 4 := 0b0000#4

/-- EVT's value for a DATA frame: ACKREQ 1, VALID 1, KIND 0 (44_classify.md R163). -/
def evtData : BitVec 4 := 0b1100#4

/-- EVT's value for an ACK frame: ACKREQ 0, VALID 1, KIND 1 (44_classify.md R163). -/
def evtAck : BitVec 4 := 0b0101#4

/-- EVT's value for a NACK frame: ACKREQ 0, VALID 1, KIND 2 (44_classify.md R163). -/
def evtNack : BitVec 4 := 0b0110#4

/-- "The only values EVT can hold" (10_state.md R34). -/
def evtLegal (v : BitVec 4) : Bool := v == evtNone || v == evtData || v == evtAck || v == evtNack

end Sys2Proof.Machine
end

