-- ==== Sys2Proof/Machine/Memory.lean ====
section
/-! DEFINITION. The named operations over a buffer's contents, and the canonical form they keep. -/

namespace Sys2Proof.Machine

/-- The canonical form of a buffer of `cap` bytes: indices strictly rising and below `cap`. What an unlisted index reads as is "no written byte", which no entry can equal; log 5. -/
def Memory.wf (cap : Nat) : Memory → Bool
  | [] => true
  | [(k, _)] => decide (k < cap)
  | (k, _) :: (k', b') :: m => decide (k < k') && Memory.wf cap ((k', b') :: m)

/-- The byte written last at index `a`, or `none` if none has been since the last hardware reset. -/
def Memory.read : Memory → Nat → Option Byte
  | [], _ => none
  | (k, b) :: m, a => if k = a then some b else Memory.read m a

/-- The cells that hold `bytes` from index `a` on. -/
def cellsAt (a : Nat) : List Byte → Memory
  | [] => []
  | b :: bytes => (a, b) :: cellsAt (a + 1) bytes

/-- `MemWrite` of 00_scope.md R17: store `bytes` from index `a` on, whatever was listed there before. -/
def Memory.write (m : Memory) (a : Nat) (bytes : List Byte) : Memory :=
  m.filter (fun c => c.1 < a) ++ cellsAt a bytes ++ m.filter (fun c => a + bytes.length ≤ c.1)

end Sys2Proof.Machine
end

