-- ==== Sys2Proof/Machine/Operands.lean ====
section
/-! DEFINITION. The operands of the commands: bytes and fields of the frame in FB, bytes of the payload in PB, and the fields a register contributes (30_encoding.md R93, 45_control.md R186). -/

namespace Sys2Proof.Machine

/-- The byte FB holds at index `i`: the byte written last, or the free value an unwritten byte holds (10_state.md R36, R42); log 5. -/
def State.fbByte (s : State) (i : Nat) : Byte := (s.fb.read i).getD (Config.fbUnwritten s.epoch i)

/-- The byte PB holds at index `i` (10_state.md R37, R42); log 5. -/
def State.pbByte (s : State) (i : Nat) : Byte := (s.pb.read i).getD (Config.pbUnwritten s.epoch i)

/-- `MemRead(FB, a, n)` (00_scope.md R17). -/
def State.fbBytes (s : State) (a n : Nat) : List Byte := (List.range n).map fun i => s.fbByte (a + i)

/-- `MemRead(PB, a, n)` (00_scope.md R17). -/
def State.pbBytes (s : State) (a n : Nat) : List Byte := (List.range n).map fun i => s.pbByte (a + i)

/-- The bytes of the frame FB holds: those below FLEN, of which only the first `FB_CAP` are in FB (10_state.md R27, R36). -/
def State.frameBytes (s : State) : List Byte := s.fbBytes 0 (min s.regs.flen.toNat fbCap)

/-- The frame's id field, `be16(FB, 1)` (30_encoding.md R93). -/
def State.frameId (s : State) : Half := be16 (s.fbByte 1) (s.fbByte 2)

/-- The frame's length field, `be16(FB, 3)`, which is also where a NACK's status stands (30_encoding.md R93). -/
def State.frameLength (s : State) : Half := be16 (s.fbByte 3) (s.fbByte 4)

/-- The received checksum of a frame of `n` bytes, `le32(FB, n-4)` (30_encoding.md R93). -/
def State.frameTrailer (s : State) (n : Nat) : Word :=
  le32 (s.fbByte (n - 4)) (s.fbByte (n - 3)) (s.fbByte (n - 2)) (s.fbByte (n - 1))

/-- The five header bytes of a NACK frame: both status bytes are written to the same offset, high byte first, so the low byte survives; the other byte of the field is 0x00 (30_encoding.md R94, 41_encode.md R133). -/
def nackHeader (offset : NackStatusOffset) (id : Half) (status : Word) : List Byte :=
  ((frameCovered 0x02#8 id 0#16 []).set offset.toNat (status.extractLsb' 8 8)).set offset.toNat (status.extractLsb' 0 8)

end Sys2Proof.Machine
end

