-- ==== Sys2Proof/Machine/Ops.lean ====
section
/-! DEFINITION. The operations the commands share: ending in success or in an error (the block's form of an exception, 60_exceptions.md R256), leaving the halted state, building a frame, delivering a payload, and the four tests of CHECK. -/

namespace Sys2Proof.Machine

/-- `fail E_X` of 00_scope.md R18: ERR takes the code and nothing else is written. This is the block's whole "trap entry" (60_exceptions.md R256); with `ErrCode.ok` it is `done`. -/
def State.fail (e : ErrCode) (s : State) : State := { s with regs.err := e.code }

/-- `done` of 00_scope.md R18. -/
def State.done (s : State) : State := s.fail .ok

/-- A CLASSIFY that reports no frame: EVT cleared, then the error (44_classify.md R160). -/
def State.rejectFrame (e : ErrCode) (s : State) : State := State.fail e { s with regs.evt := evtNone }

/-- `dispatch_fail e` of 44_classify.md R165: EVT cleared, HALT set when FATALEN is 1, then the error. -/
def State.dispatchFail (e : ErrCode) (s : State) : State :=
  if s.fatalen then State.rejectFrame e { s with regs.status := 1#1 } else s.rejectFrame e

/-- Every register to its reset value, buffers untouched (45_control.md R180); the only command that leaves the halted state (60_exceptions.md R259). -/
def State.resetRegisters (s : State) : State := { s with regs := Registers.reset }

/-- The hardware reset (70_reset_and_hazards.md R290): registers to their reset values, every buffer byte unspecified again; log 6. -/
def State.hardReset (s : State) : State :=
  { s with regs := Registers.reset, fb := [], pb := [], epoch := s.epoch + 1, answer := .silent }

/-- The encoders' common end: the covered bytes and the little-endian CRC of them into FB from offset 0, FLEN, CRCCALC, `done` (41_encode.md R130, R132, R133). -/
def State.buildFrame (covered : List Byte) (s : State) : State :=
  State.done { s with
    fb := s.fb.write 0 (withTrailer s.cfg.crc covered)
    regs.flen := BitVec.ofNat 17 (covered.length + trlLen)
    regs.crccalc := crc32 s.cfg.crc covered }

/-- A decoded payload into PB from index 0, and its length into PLEN (42_decode.md R142, 44_classify.md R163). -/
def State.deliverPayload (payload : List Byte) (s : State) : State :=
  { s with pb := s.pb.write 0 payload, regs.plen := BitVec.ofNat 17 payload.length }

/-- The four tests of CHECK in their order (43_check.md R150, R151): the verdict, and the state with CRCCALC written if the checksum stage was reached. -/
def State.validate (s : State) : ErrCode × State :=
  let n := s.regs.flen.toNat
  if n < minFrame then (.tooShort, s)
  else if 2 < (s.fbByte 0).toNat then (.badType, s)
  else if s.frameLength.toNat + 9 ≠ n then (.lengthMismatch, s)
  else
    let c := crc32 s.cfg.crc (s.fbBytes 0 (n - trlLen))
    let s' := { s with regs.crccalc := c }
    if c ≠ s.frameTrailer n then (.checksumMismatch, s') else (.ok, s')

end Sys2Proof.Machine
end

