-- ==== Sys2Proof/Machine/Classify.lean ====
section
/-! DEFINITION. The validator CHECK (43_check.md), the frame kinds DATA, ACK and NACK (44_classify.md R163) and the classifier CLASSIFY (R160 to R165). -/

namespace Sys2Proof.Machine

/-- CHECK (43_check.md R150). -/
def execCheck (s : State) : Host.Outcome State Fault Refusal :=
  match s.validate with
  | (e, s') => .next (s'.fail e)

/-- The frame kind DATA: id, payload and event reported (44_classify.md R163, classify_data). A payload no frame can carry is refused (log 12). -/
def execData (id : Half) (payload : List Byte) (s : State) : Host.Outcome State Fault Refusal :=
  if maxPayload < payload.length then .refused .payloadExceedsField
  else .next (State.done { s.deliverPayload payload with regs.rid := id, regs.evt := evtData })

/-- The frame kind ACK: id and event reported (44_classify.md R163, classify_ack). -/
def execAck (id : Half) (s : State) : Host.Outcome State Fault Refusal :=
  .next (State.done { s with regs.rid := id, regs.evt := evtAck })

/-- The frame kind NACK: id, status and event reported (44_classify.md R163, classify_nack). -/
def execNack (id status : Half) (s : State) : Host.Outcome State Fault Refusal :=
  .next (State.done { s with regs.rid := id, regs.rstatus := status, regs.evt := evtNack })

/-- The selection on the decoded frame (44_classify.md R162, R163, R165). -/
def runFrame (s : State) : Except FrameError Frame → Host.Outcome State Fault Refusal
  | .ok (.data id payload)  => execData id payload s
  | .ok (.ack id)           => execAck id s
  | .ok (.nack id status)   => execNack id status s
  | .error .unknownType     => .next (s.dispatchFail .unknownType)
  | .error .truncated       => .next (s.dispatchFail .truncated)

/-- The dispatch stage (44_classify.md R162): RTYPE takes the type byte before the selection, whatever it is. -/
def dispatch (s : State) : Host.Outcome State Fault Refusal :=
  if s.regs.flen.toNat < 1 then .next (s.dispatchFail .truncated)
  else runFrame { s with regs.rtype := s.fbByte 0 } (decodeFrame s.frameBytes)

/-- CLASSIFY (44_classify.md R160): the halt gate, the validation stage when CHKEN is 1 (R161), the dispatch stage. -/
def execClassify (s : State) : Host.Outcome State Fault Refusal :=
  if s.halt then .next (s.rejectFrame .halted)
  else if s.chken then
    match s.validate with
    | (.ok, s') => dispatch s'
    | (e, s')   => .next (s'.rejectFrame e)
  else dispatch s

end Sys2Proof.Machine
end

