-- ==== Sys2Proof/Machine/Control.lean ====
section
/-! DEFINITION. The control command SRST (45_control.md). -/

namespace Sys2Proof.Machine

/-- SRST (45_control.md R180): every register to its reset value, ERR included, FB and PB unchanged. -/
def execSrst (s : State) : Host.Outcome State Fault Refusal := .next s.resetRegisters

end Sys2Proof.Machine
end

