-- ==== Sys2Proof/Machine/Encode.lean ====
section
/-! DEFINITION. The frame serializer: ENC_DATA, ENC_ACK, ENC_NACK (41_encode.md). -/

namespace Sys2Proof.Machine

/-- ENC_DATA (41_encode.md R130, R131). -/
def execEncData (s : State) : Host.Outcome State Fault Refusal :=
  let n := s.regs.plen.toNat
  if maxPayload < n then .next (s.fail .payloadTooLong)
  else .next (s.buildFrame (frameCovered 0x00#8 s.regs.txid (BitVec.ofNat 16 n) (s.pbBytes 0 n)))

/-- ENC_ACK (41_encode.md R132). -/
def execEncAck (s : State) : Host.Outcome State Fault Refusal :=
  .next (s.buildFrame (frameCovered 0x01#8 s.regs.txid 0#16 []))

/-- ENC_NACK (41_encode.md R133). -/
def execEncNack (s : State) : Host.Outcome State Fault Refusal :=
  .next (s.buildFrame (nackHeader s.cfg.nackStatusOffset s.regs.txid s.regs.txstatus))

end Sys2Proof.Machine
end

