-- ==== Sys2Proof/Machine/Fields.lean ====
section
/-! DEFINITION. The frame deserializer: DEC_TYPE, DEC_ID, DEC_PAYLOAD, DEC_STATUS (42_decode.md). -/

namespace Sys2Proof.Machine

/-- DEC_TYPE (42_decode.md R140). -/
def execDecType (s : State) : Host.Outcome State Fault Refusal :=
  if s.regs.flen.toNat < 1 then .next (s.fail .truncated)
  else .next (State.done { s with regs.rtype := s.fbByte 0 })

/-- DEC_ID (42_decode.md R141). -/
def execDecId (s : State) : Host.Outcome State Fault Refusal :=
  if s.regs.flen.toNat < 3 then .next (s.fail .truncated)
  else .next (State.done { s with regs.rid := s.frameId })

/-- DEC_PAYLOAD (42_decode.md R142). -/
def execDecPayload (s : State) : Host.Outcome State Fault Refusal :=
  let n := s.frameLength.toNat
  if s.regs.flen.toNat < 5 then .next (s.fail .truncated)
  else if s.regs.flen.toNat < 5 + n then .next (s.fail .truncated)
  else .next (s.deliverPayload (s.fbBytes 5 n)).done

/-- DEC_STATUS (42_decode.md R143). -/
def execDecStatus (s : State) : Host.Outcome State Fault Refusal :=
  if s.regs.flen.toNat < 5 then .next (s.fail .truncated)
  else .next (State.done { s with regs.rstatus := s.frameLength })

end Sys2Proof.Machine
end

