-- ==== Sys2Proof/Machine/Dispatch.lean ====
section
/-! DEFINITION. The dispatch of every row of the opcode table to its meaning. -/

namespace Sys2Proof.Machine

def exec (i : Instr) (s : State) : Host.Outcome State Fault Refusal :=
  match i with
  | .encData => Sys2Proof.Machine.execEncData s
  | .encAck => Sys2Proof.Machine.execEncAck s
  | .encNack => Sys2Proof.Machine.execEncNack s
  | .decType => Sys2Proof.Machine.execDecType s
  | .decId => Sys2Proof.Machine.execDecId s
  | .decPayload => Sys2Proof.Machine.execDecPayload s
  | .decStatus => Sys2Proof.Machine.execDecStatus s
  | .check => Sys2Proof.Machine.execCheck s
  | .classify => Sys2Proof.Machine.execClassify s
  | .srst => Sys2Proof.Machine.execSrst s
  | .data id payload => Sys2Proof.Machine.execData id payload s
  | .ack id => Sys2Proof.Machine.execAck id s
  | .nack id status => Sys2Proof.Machine.execNack id status s

end Sys2Proof.Machine
end

