-- ==== Sys2Proof/Machine/Port.lean ====
section
/-! DEFINITION. The host port: the address map (20_memory.md R70), the four operations it binds (R72), the refused accesses (R66, R71), and the serving of one port event. -/

namespace Sys2Proof.Machine

/-- What an offset in the window names (20_memory.md R70). -/
inductive Target where
  | reg (r : Reg)
  | unalignedReg           -- inside 0x00 to 0x33 but no multiple of 4
  | byte (b : Buf) (i : Nat)
  deriving DecidableEq, Repr

/-- The offset of each register from the window's base (20_memory.md R70). -/
def regOffset : Reg → Nat
  | .cmd      => 0x00
  | .ctrl     => 0x04
  | .status   => 0x08
  | .err      => 0x0C
  | .evt      => 0x10
  | .txid     => 0x14
  | .txstatus => 0x18
  | .rtype    => 0x1C
  | .rid      => 0x20
  | .rstatus  => 0x24
  | .crccalc  => 0x28
  | .flen     => 0x2C
  | .plen     => 0x30

/-- The offset of byte `i` of a buffer (20_memory.md R70). -/
def bufOffset : Buf → Nat → Nat
  | .fb, i => 0x10000 + i
  | .pb, i => 0x30000 + i

/-- The register at an offset of REG, none where no register starts (20_memory.md R70). -/
def regAt : Nat → Option Reg
  | 0x00 => some .cmd
  | 0x04 => some .ctrl
  | 0x08 => some .status
  | 0x0C => some .err
  | 0x10 => some .evt
  | 0x14 => some .txid
  | 0x18 => some .txstatus
  | 0x1C => some .rtype
  | 0x20 => some .rid
  | 0x24 => some .rstatus
  | 0x28 => some .crccalc
  | 0x2C => some .flen
  | 0x30 => some .plen
  | _    => none

/-- The address map (20_memory.md R70); `none` is an unmapped offset (R71). -/
def target (o : Nat) : Option Target :=
  if o < 0x34 then
    match regAt o with
    | some r => some (.reg r)
    | none   => some .unalignedReg
  else if 0x10000 ≤ o ∧ o < 0x10000 + fbCap then some (.byte .fb (o - 0x10000))
  else if 0x30000 ≤ o ∧ o < 0x30000 + pbCap then some (.byte .pb (o - 0x30000))
  else none

/-- The size of the block's window (20_memory.md R70). -/
abbrev windowSize : Nat := 262144

/-- `HostReadReg` (20_memory.md R72): the register zero-extended to 32 bits (R63); CMD reads 0 (10_state.md R30). -/
def State.readReg (s : State) : Reg → Word
  | .cmd      => 0#32
  | .ctrl     => s.regs.ctrl.setWidth 32
  | .status   => s.regs.status.setWidth 32
  | .err      => s.regs.err.setWidth 32
  | .evt      => s.regs.evt.setWidth 32
  | .txid     => s.regs.txid.setWidth 32
  | .txstatus => s.regs.txstatus
  | .rtype    => s.regs.rtype.setWidth 32
  | .rid      => s.regs.rid.setWidth 32
  | .rstatus  => s.regs.rstatus.setWidth 32
  | .crccalc  => s.regs.crccalc
  | .flen     => s.regs.flen.setWidth 32
  | .plen     => s.regs.plen.setWidth 32

/-- A write to CMD: the command it encodes runs to its end; a reserved code sets ERR to E_BAD_OP and nothing else (10_state.md R30, 45_control.md R181). -/
def runCommand (v : Word) (s : State) : Host.Outcome State Fault Refusal :=
  match decodeCommand v with
  | .ok i    => exec i s
  | .error _ => .next (s.fail .badOp)

/-- `HostWriteReg` (20_memory.md R72): the low bits that fit are stored (45_control.md R183), a read-only register ignores the write (10_state.md R44), CMD starts a command (R30). -/
def State.writeReg (s : State) (r : Reg) (v : Word) : Host.Outcome State Fault Refusal :=
  match r with
  | .cmd      => runCommand v s
  | .ctrl     => .next { s with regs.ctrl := v.setWidth 2 }
  | .txid     => .next { s with regs.txid := v.setWidth 16 }
  | .txstatus => .next { s with regs.txstatus := v }
  | .flen     => .next { s with regs.flen := v.setWidth 17 }
  | .plen     => .next { s with regs.plen := v.setWidth 17 }
  | .status | .err | .evt | .rtype | .rid | .rstatus | .crccalc => .next s

/-- `HostReadBuf` (20_memory.md R72). -/
def State.readBuf (s : State) : Buf → Nat → Byte
  | .fb, i => s.fbByte i
  | .pb, i => s.pbByte i

/-- `HostWriteBuf` (20_memory.md R72). -/
def State.writeBuf (s : State) : Buf → Nat → Byte → State
  | .fb, i, b => { s with fb := s.fb.write i [b] }
  | .pb, i, b => { s with pb := s.pb.write i [b] }

/-- What an access of `bits` bits at an offset reaches: a register or a buffer byte, or the reason it is refused (20_memory.md R66, R71; logs 3 and 4). -/
inductive Access where
  | reg (r : Reg)
  | byte (b : Buf) (i : Nat)
  | outside
  | refuse (r : Refusal)
  deriving DecidableEq, Repr

/-- Registers by aligned 32-bit accesses, buffers by 8-bit accesses, everything else refused (20_memory.md R66, R71). -/
def access (bits : Nat) (offset : Word) : Access :=
  if windowSize ≤ offset.toNat then .outside
  else
    match target offset.toNat with
    | none               => .refuse .unmappedOffset
    | some (.reg r)      => if bits = 32 then .reg r else .refuse .wrongWidth
    | some .unalignedReg => if bits = 32 then .refuse .misaligned else .refuse .wrongWidth
    | some (.byte b i)   => if bits = 8 then .byte b i else .refuse .wrongWidth

/-- A host read: the data is returned and nothing else changes (10_state.md R44, 20_memory.md R68). -/
def serveRead (s : State) : Access → Host.Outcome State Fault Refusal
  | .reg r    => .next { s with answer := .word (s.readReg r) }
  | .byte b i => .next { s with answer := .byte (s.readBuf b i) }
  | .outside  => .fault .outsideWindow
  | .refuse r => .refused r

/-- A host write: stored, or a command started (20_memory.md R68); it returns no data. -/
def serveWrite (s : State) (v : Word) : Access → Host.Outcome State Fault Refusal
  | .reg r    => State.writeReg { s with answer := .silent } r v
  | .byte b i => .next (State.writeBuf { s with answer := .silent } b i (v.setWidth 8))
  | .outside  => .fault .outsideWindow
  | .refuse r => .refused r

/-- The serving of one port event (20_memory.md R75, R76). -/
def serve (e : PortEvent) (s : State) : Host.Outcome State Fault Refusal :=
  match e with
  | .read bits offset    => serveRead s (access bits offset)
  | .write bits offset v => serveWrite s v (access bits offset)
  | .hardReset           => .next s.hardReset

/-- The port's oldest event is served with the rest left waiting (20_memory.md R76); with none the block is idle and holds its state (60_exceptions.md R275); logs 1 and 2. -/
def stepPort (s : State) : Host.Outcome State Fault Refusal :=
  match s.port with
  | []        => .next s
  | e :: rest => serve e { s with port := rest }

/-- The port event that writes `v` to CMD. -/
def commandWrite (v : Word) : PortEvent := .write 32 (BitVec.ofNat 32 (regOffset .cmd)) v

/-- A command word arrives at the port before everything that waits there; log 11. -/
def State.withCommandWord (s : State) (w : Nat) : State :=
  { s with port := commandWrite (BitVec.ofNat 32 w) :: s.port }

/-- A frame is put in FB and CLASSIFY arrives at the port, with the mode bits under which it reaches the dispatch stage whatever the frame's trailer (CHKEN 0, HALT 0); log 11. -/
def State.withFrameWord (s : State) (w : Nat) : State :=
  { s with
    fb := s.fb.write 0 (tableFrameBytes w)
    regs.flen := BitVec.ofNat 17 (tableFrameBytes w).length
    regs.ctrl := s.regs.ctrl &&& 2#2
    regs.status := 0#1
    port := commandWrite 0x09#32 :: s.port }

end Sys2Proof.Machine
end

