-- ==== Sys2Proof/Machine/Step.lean ====
section
/-! DEFINITION. One step of the block: the oldest access on the port is served. -/

namespace Sys2Proof.Machine

/-- One step (20_memory.md R75, R76): see `stepPort`. -/
def step (s : State) : Host.Outcome State Fault Refusal := stepPort s

/-- `s` with the instruction of an opcode-table word placed where the next step takes it: a command on the port, a frame in FB with CLASSIFY on the port; log 11. -/
def State.withFetchWord (s : State) (nbits w : Nat) : State :=
  if isFrameWord nbits w then s.withFrameWord w else s.withCommandWord w

end Sys2Proof.Machine
end

