-- ==== Sys2Proof/Machine/Script.lean ====
section
/-! DEFINITION. The script notation of 30_encoding.md R104 and the pseudo-instructions of R105, as the port events they stand for. -/

namespace Sys2Proof.Machine.Script

/-- `WR <REG>, <value>` (30_encoding.md R104). -/
def wr (r : Reg) (v : Word) : PortEvent := .write 32 (BitVec.ofNat 32 (regOffset r)) v

/-- `RD <REG>` (30_encoding.md R104). -/
def rd (r : Reg) : PortEvent := .read 32 (BitVec.ofNat 32 (regOffset r))

/-- `WB <BUF>[<i>], <byte>` (30_encoding.md R104). -/
def wb (b : Buf) (i : Nat) (v : Byte) : PortEvent := .write 8 (BitVec.ofNat 32 (bufOffset b i)) (v.setWidth 32)

/-- `RB <BUF>[<i>]` (30_encoding.md R104). -/
def rb (b : Buf) (i : Nat) : PortEvent := .read 8 (BitVec.ofNat 32 (bufOffset b i))

/-- `CMD <MNEMONIC>`: the write of the command's code to CMD (30_encoding.md R104, R100). A frame kind has no code: nothing is written. -/
def cmd (i : Instr) : List PortEvent :=
  match encode CrcParams.standard i with
  | .command w => [wr .cmd w]
  | .frame _   => []

/-- The writes of consecutive bytes of a buffer. -/
def wbs (b : Buf) : Nat → List Byte → List PortEvent
  | _, [] => []
  | i, v :: vs => wb b i v :: wbs b (i + 1) vs

/-- `LOADFB` (30_encoding.md R105): at most the first `FB_CAP` bytes, then FLEN with the true count. -/
def loadFB (bytes : List Byte) : List PortEvent :=
  wbs .fb 0 (bytes.take fbCap) ++ [wr .flen (BitVec.ofNat 32 bytes.length)]

/-- `LOADPB` (30_encoding.md R105). -/
def loadPB (bytes : List Byte) : List PortEvent :=
  wbs .pb 0 bytes ++ [wr .plen (BitVec.ofNat 32 bytes.length)]

/-- `encode_data(id, payload)` (30_encoding.md R105). -/
def encodeData (id : Half) (payload : List Byte) : List PortEvent :=
  loadPB payload ++ [wr .txid (id.setWidth 32)] ++ cmd .encData

/-- `encode_ack(id)` (30_encoding.md R105). -/
def encodeAck (id : Half) : List PortEvent := wr .txid (id.setWidth 32) :: cmd .encAck

/-- `encode_nack(id, status)` (30_encoding.md R105). -/
def encodeNack (id : Half) (status : Word) : List PortEvent :=
  wr .txid (id.setWidth 32) :: wr .txstatus status :: cmd .encNack

/-- `decode_type(frame)` (30_encoding.md R105). -/
def decodeType (frame : List Byte) : List PortEvent := loadFB frame ++ cmd .decType

/-- `decode_id(frame)` (30_encoding.md R105). -/
def decodeId (frame : List Byte) : List PortEvent := loadFB frame ++ cmd .decId

/-- `decode_payload(frame)` (30_encoding.md R105). -/
def decodePayload (frame : List Byte) : List PortEvent := loadFB frame ++ cmd .decPayload

/-- `decode_status(frame)` (30_encoding.md R105). -/
def decodeStatus (frame : List Byte) : List PortEvent := loadFB frame ++ cmd .decStatus

/-- `check(frame)` (30_encoding.md R105). -/
def check (frame : List Byte) : List PortEvent := loadFB frame ++ cmd .check

/-- `classify(frame)` (30_encoding.md R105). -/
def classify (frame : List Byte) : List PortEvent := loadFB frame ++ cmd .classify

end Sys2Proof.Machine.Script
end

