-- ==== Sys2Proof/Safety.lean ====
section
/-! DEFINITION. The terms in which claims are made: the invariant, what an instruction leaves alone, the accesses the port serves, and valid frames. -/

namespace Sys2Proof.Machine

/-- The invariant of every state a run reaches: both buffers in canonical form, EVT one of its four values (10_state.md R34), ERR one of the ten codes (60_exceptions.md R250), and no event reported while HALT is 1 (44_classify.md R160, R165). -/
def State.Inv (s : State) : Prop :=
  s.fb.wf fbCap = true ∧ s.pb.wf pbCap = true ∧ evtLegal s.regs.evt = true ∧ s.regs.err.toNat ≤ 9 ∧
    (s.halt = true → s.regs.evt = evtNone)

/-- Nothing outside the block's registers and buffers differs: parameters, free values, port, answer. -/
def SameWorld (s t : State) : Prop :=
  t.cfg = s.cfg ∧ t.epoch = s.epoch ∧ t.port = s.port ∧ t.answer = s.answer

/-- Every byte of FB from index `n` on reads as before (00_scope.md R17). -/
def SameFbFrom (n : Nat) (s t : State) : Prop := ∀ a, n ≤ a → t.fbByte a = s.fbByte a

/-- Every byte of PB from index `n` on reads as before. -/
def SamePbFrom (n : Nat) (s t : State) : Prop := ∀ a, n ≤ a → t.pbByte a = s.pbByte a

/-- Every byte of both buffers reads as before. -/
def SameBuffers (s t : State) : Prop := SameFbFrom 0 s t ∧ SamePbFrom 0 s t

/-- FB holds `bytes` from index 0 on. -/
def FbHolds (t : State) (bytes : List Byte) : Prop := ∀ a b, bytes[a]? = some b → t.fbByte a = b

/-- PB holds `bytes` from index 0 on. -/
def PbHolds (t : State) (bytes : List Byte) : Prop := ∀ a b, bytes[a]? = some b → t.pbByte a = b

/-- The frame in FB is one the validator accepts: the four conditions of 43_check.md R150, in words of 30_encoding.md R91 and 40_crc.md R123. -/
def State.ValidFrame (s : State) : Prop :=
  9 ≤ s.regs.flen.toNat ∧ (s.fbByte 0).toNat ≤ 2 ∧ s.frameLength.toNat + 9 = s.regs.flen.toNat ∧
    crc32 s.cfg.crc (s.fbBytes 0 (s.regs.flen.toNat - 4)) = s.frameTrailer s.regs.flen.toNat

/-- The frame in FB holds every field that CLASSIFY's dispatch reads for its kind (44_classify.md R163). -/
def State.HoldsKindFields (s : State) : Prop :=
  ((s.fbByte 0).toNat = 0 ∧ 5 + s.frameLength.toNat ≤ s.regs.flen.toNat) ∨
    ((s.fbByte 0).toNat = 1 ∧ 3 ≤ s.regs.flen.toNat) ∨ ((s.fbByte 0).toNat = 2 ∧ 5 ≤ s.regs.flen.toNat)

/-- The number of bytes of a buffer (00_scope.md R11). -/
def bufCap : Buf → Nat
  | .fb => fbCap
  | .pb => pbCap

/-- The events the port serves: the four operations of 20_memory.md R72 as R66 and R70 bind them, and the hardware reset. A run all of whose events are served never stops. -/
def Served (e : PortEvent) : Prop :=
  (∃ r, e = .read 32 (BitVec.ofNat 32 (regOffset r))) ∨
  (∃ r v, e = .write 32 (BitVec.ofNat 32 (regOffset r)) v) ∨
  (∃ b i, i < bufCap b ∧ e = .read 8 (BitVec.ofNat 32 (bufOffset b i))) ∨
  (∃ b i v, i < bufCap b ∧ e = .write 8 (BitVec.ofNat 32 (bufOffset b i)) v) ∨
  e = .hardReset

/-- A run that does not stop: the next `k` steps all answer a next state. -/
def SafeRun (k : Nat) (s : State) : Prop := ∃ t, Sys2Proof.core.run k s = .next t

end Sys2Proof.Machine
end

