-- ==== Sys2Proof/Certificates/Slice0/Obligations.lean ====
section
/-! DEFINITION. The statements for the provers: what the commands, the frame kinds and the host port do, the invariants every step keeps, and the agreement of decoder and encoder. -/

open Sys2Proof Sys2Proof.Machine

/-! ### The frame serializer (41_encode.md) -/

/-- ENC_DATA with PLEN above 65535 builds nothing: ERR takes E_PAYLOAD_TOO_LONG and nothing else changes. With a payload that fits it builds the DATA frame byte by byte, over the CRC of the bytes just written, and writes FLEN, CRCCALC and ERR; every other register, every other byte of FB and all of PB are unchanged (41_encode.md R130). -/
def Obligations.EncDataBuildsFrame : Prop :=
  ∀ s : State,
    (65535 < s.regs.plen.toNat → exec .encData s = .next { s with regs.err := 6#8 }) ∧
    (s.regs.plen.toNat ≤ 65535 → ∃ t, exec .encData s = .next t ∧
      t.fbByte 0 = 0x00#8 ∧
      (t.fbByte 1).toNat = s.regs.txid.toNat / 256 ∧ (t.fbByte 2).toNat = s.regs.txid.toNat % 256 ∧
      (t.fbByte 3).toNat = s.regs.plen.toNat / 256 ∧ (t.fbByte 4).toNat = s.regs.plen.toNat % 256 ∧
      (∀ i, i < s.regs.plen.toNat → t.fbByte (5 + i) = s.pbByte i) ∧
      (∀ k, k < 4 → (t.fbByte (5 + s.regs.plen.toNat + k)).toNat =
        (crc32 s.cfg.crc (t.fbBytes 0 (5 + s.regs.plen.toNat))).toNat / 256 ^ k % 256) ∧
      SameFbFrom (s.regs.plen.toNat + 9) s t ∧ SamePbFrom 0 s t ∧ SameWorld s t ∧
      t.regs = { s.regs with
        flen := BitVec.ofNat 17 (s.regs.plen.toNat + 9)
        crccalc := crc32 s.cfg.crc (t.fbBytes 0 (5 + s.regs.plen.toNat))
        err := 0#8 })

/-- ENC_ACK always builds the nine-byte ACK frame for TXID; nothing else changes (41_encode.md R132). -/
def Obligations.EncAckBuildsFrame : Prop :=
  ∀ s : State, ∃ t, exec .encAck s = .next t ∧
    t.fbByte 0 = 0x01#8 ∧
    (t.fbByte 1).toNat = s.regs.txid.toNat / 256 ∧ (t.fbByte 2).toNat = s.regs.txid.toNat % 256 ∧
    t.fbByte 3 = 0x00#8 ∧ t.fbByte 4 = 0x00#8 ∧
    (∀ k, k < 4 → (t.fbByte (5 + k)).toNat = (crc32 s.cfg.crc (t.fbBytes 0 5)).toNat / 256 ^ k % 256) ∧
    SameFbFrom 9 s t ∧ SamePbFrom 0 s t ∧ SameWorld s t ∧
    t.regs = { s.regs with flen := 9#17, crccalc := crc32 s.cfg.crc (t.fbBytes 0 5), err := 0#8 }

/-- ENC_NACK always builds a nine-byte NACK frame whose length field holds TXSTATUS[7:0] at NACK_STATUS_OFFSET and 0x00 in its other byte; nothing else changes (41_encode.md R133, 30_encoding.md R94). -/
def Obligations.EncNackBuildsFrame : Prop :=
  ∀ s : State, ∃ t, exec .encNack s = .next t ∧
    t.fbByte 0 = 0x02#8 ∧
    (t.fbByte 1).toNat = s.regs.txid.toNat / 256 ∧ (t.fbByte 2).toNat = s.regs.txid.toNat % 256 ∧
    (s.cfg.nackStatusOffset = .four →
      t.fbByte 3 = 0x00#8 ∧ (t.fbByte 4).toNat = s.regs.txstatus.toNat % 256) ∧
    (s.cfg.nackStatusOffset = .three →
      (t.fbByte 3).toNat = s.regs.txstatus.toNat % 256 ∧ t.fbByte 4 = 0x00#8) ∧
    (∀ k, k < 4 → (t.fbByte (5 + k)).toNat = (crc32 s.cfg.crc (t.fbBytes 0 5)).toNat / 256 ^ k % 256) ∧
    SameFbFrom 9 s t ∧ SamePbFrom 0 s t ∧ SameWorld s t ∧
    t.regs = { s.regs with flen := 9#17, crccalc := crc32 s.cfg.crc (t.fbBytes 0 5), err := 0#8 }

/-- What becomes of a status code: DEC_STATUS of the built NACK gives TXSTATUS mod 256 (times 256 with offset 3), CHECK answers E_OK exactly when that byte is 0 and E_LENGTH_MISMATCH otherwise, the trailer is the CRC of the five bytes before it, and the other bits of TXSTATUS have no effect at all (41_encode.md, the consequences R134; an inference the spec marks as its own). -/
def Obligations.NackStatusLowByteTravels : Prop :=
  ∀ s : State, ∃ t, exec .encNack s = .next t ∧
    (∃ u, exec .decStatus t = .next u ∧ u.regs.err = 0#8 ∧
      u.regs.rstatus.toNat =
        if s.cfg.nackStatusOffset = .four then s.regs.txstatus.toNat % 256 else s.regs.txstatus.toNat % 256 * 256) ∧
    (∃ u, exec .check t = .next u ∧
      u.regs.err = if s.regs.txstatus.toNat % 256 = 0 then 0#8 else 3#8) ∧
    t.frameTrailer 9 = crc32 s.cfg.crc (t.fbBytes 0 5) ∧
    (∀ x : Word, x.toNat % 256 = s.regs.txstatus.toNat % 256 →
      exec .encNack { s with regs.txstatus := x } = .next { t with regs.txstatus := x })

/-- Each encoder leaves in FB[0..FLEN-1] the bytes the encoder of frames gives for its kind: DATA of TXID and the payload, ACK of TXID, NACK of TXID and the surviving status field (30_encoding.md, section 1). -/
def Obligations.EncodersBuildTheEncodedFrame : Prop :=
  ∀ s : State,
    (s.regs.plen.toNat ≤ 65535 → ∃ t, exec .encData s = .next t ∧
      encode s.cfg.crc (.data s.regs.txid (s.pbBytes 0 s.regs.plen.toNat)) = .frame (t.fbBytes 0 t.regs.flen.toNat)) ∧
    (∃ t, exec .encAck s = .next t ∧
      encode s.cfg.crc (.ack s.regs.txid) = .frame (t.fbBytes 0 t.regs.flen.toNat)) ∧
    (∃ t, exec .encNack s = .next t ∧
      encode s.cfg.crc (.nack s.regs.txid (BitVec.ofNat 16
        (if s.cfg.nackStatusOffset = .four then s.regs.txstatus.toNat % 256 else s.regs.txstatus.toNat % 256 * 256))) =
          .frame (t.fbBytes 0 t.regs.flen.toNat))

/-- The round trip of DATA frames: for every id and every payload of 0 to 65535 bytes the built frame is n + 9 bytes long, passes CHECK with the same CRC, and gives back its type, its id and, whatever PB holds by then, its payload (41_encode.md, Laws of the encoders). -/
def Obligations.DataFrameRoundTrip : Prop :=
  ∀ s : State, s.regs.plen.toNat ≤ 65535 →
    ∃ t, exec .encData s = .next t ∧ t.regs.flen.toNat = s.regs.plen.toNat + 9 ∧
      (∃ u, exec .check t = .next u ∧ u.regs.err = 0#8 ∧ u.regs.crccalc = t.regs.crccalc) ∧
      (∃ u, exec .decType t = .next u ∧ u.regs.err = 0#8 ∧ u.regs.rtype = 0#8) ∧
      (∃ u, exec .decId t = .next u ∧ u.regs.err = 0#8 ∧ u.regs.rid = s.regs.txid) ∧
      (∀ (pb : Memory) (plen : Length), ∃ u, exec .decPayload { t with pb := pb, regs.plen := plen } = .next u ∧
        u.regs.err = 0#8 ∧ u.regs.plen = s.regs.plen ∧ ∀ i, i < s.regs.plen.toNat → u.pbByte i = s.pbByte i)

/-- ACK and NACK frames: nine bytes, the right type and id from the decoders, and CHECK accepts every built ACK and exactly the NACKs whose status low byte is 0 (41_encode.md, Laws of the encoders). -/
def Obligations.AckAndNackFramesRoundTrip : Prop :=
  ∀ s : State,
    (∃ t, exec .encAck s = .next t ∧ t.regs.flen = 9#17 ∧
      (∃ u, exec .check t = .next u ∧ u.regs.err = 0#8) ∧
      (∃ u, exec .decType t = .next u ∧ u.regs.err = 0#8 ∧ u.regs.rtype = 1#8) ∧
      (∃ u, exec .decId t = .next u ∧ u.regs.err = 0#8 ∧ u.regs.rid = s.regs.txid)) ∧
    (∃ t, exec .encNack s = .next t ∧ t.regs.flen = 9#17 ∧
      (∃ u, exec .check t = .next u ∧ (u.regs.err = 0#8 ↔ s.regs.txstatus.toNat % 256 = 0)) ∧
      (∃ u, exec .decType t = .next u ∧ u.regs.err = 0#8 ∧ u.regs.rtype = 2#8) ∧
      (∃ u, exec .decId t = .next u ∧ u.regs.err = 0#8 ∧ u.regs.rid = s.regs.txid))

/-- A frame built by ENC_DATA and handed to CLASSIFY is reported as DATA with the sender's id and payload, whatever PB holds by then and whether CLASSIFY validates or not (41_encode.md and 44_classify.md together). -/
def Obligations.EncodedDataFrameIsClassified : Prop :=
  ∀ s : State, s.regs.plen.toNat ≤ 65535 → s.halt = false →
    ∃ t, exec .encData s = .next t ∧
      ∀ (pb : Memory) (plen : Length), ∃ u, exec .classify { t with pb := pb, regs.plen := plen } = .next u ∧
        u.regs.err = 0#8 ∧ u.evtValid = true ∧ u.evtAckreq = true ∧ u.evtKind = 0#2 ∧ u.halt = false ∧
        u.regs.rid = s.regs.txid ∧ u.regs.plen = s.regs.plen ∧
        ∀ i, i < s.regs.plen.toNat → u.pbByte i = s.pbByte i

/-- No instruction but the three encoders writes FB, and none but them and SRST writes FLEN: a frame in FB is replaced whole or not at all (41_encode.md, Laws of the encoders; 10_state.md, section 9). -/
def Obligations.OnlyEncodersWriteTheFrameBuffer : Prop :=
  ∀ (i : Instr) (s t : State), i ≠ .encData → i ≠ .encAck → i ≠ .encNack → exec i s = .next t →
    SameFbFrom 0 s t ∧ (i ≠ .srst → t.regs.flen = s.regs.flen)

/-! ### The frame deserializer (42_decode.md) -/

/-- DEC_TYPE: RTYPE takes the raw type byte; with no byte, E_TRUNCATED and nothing else (42_decode.md R140). -/
def Obligations.DecTypeReadsTypeByte : Prop :=
  ∀ s : State,
    (1 ≤ s.regs.flen.toNat → exec .decType s = .next { s with regs.rtype := s.fbByte 0, regs.err := 0#8 }) ∧
    (s.regs.flen.toNat < 1 → exec .decType s = .next { s with regs.err := 5#8 })

/-- DEC_ID: RID takes the big-endian id and nothing else but ERR changes; below three bytes, E_TRUNCATED and nothing else (42_decode.md R141). -/
def Obligations.DecIdReadsBigEndianId : Prop :=
  ∀ s : State,
    (3 ≤ s.regs.flen.toNat → ∃ v : Half, v.toNat = (s.fbByte 1).toNat * 256 + (s.fbByte 2).toNat ∧
      exec .decId s = .next { s with regs.rid := v, regs.err := 0#8 }) ∧
    (s.regs.flen.toNat < 3 → exec .decId s = .next { s with regs.err := 5#8 })

/-- DEC_STATUS: RSTATUS takes the big-endian value at the length field's offset, unsigned; below five bytes, E_TRUNCATED and nothing else (42_decode.md R143). -/
def Obligations.DecStatusReadsLengthField : Prop :=
  ∀ s : State,
    (5 ≤ s.regs.flen.toNat → ∃ v : Half, v.toNat = (s.fbByte 3).toNat * 256 + (s.fbByte 4).toNat ∧
      exec .decStatus s = .next { s with regs.rstatus := v, regs.err := 0#8 }) ∧
    (s.regs.flen.toNat < 5 → exec .decStatus s = .next { s with regs.err := 5#8 })

/-- DEC_PAYLOAD: with the header or the declared payload not all there, E_TRUNCATED and nothing else; otherwise the declared number of bytes from FB[5] on is copied to PB and PLEN takes that number, with FB, PB beyond it and every other register unchanged (42_decode.md R142). -/
def Obligations.DecPayloadCopiesDeclaredBytes : Prop :=
  ∀ (s : State) (n : Nat), n = (s.fbByte 3).toNat * 256 + (s.fbByte 4).toNat →
    (s.regs.flen.toNat < 5 ∨ s.regs.flen.toNat < 5 + n → exec .decPayload s = .next { s with regs.err := 5#8 }) ∧
    (5 ≤ s.regs.flen.toNat → 5 + n ≤ s.regs.flen.toNat →
      ∃ t, exec .decPayload s = .next t ∧
        (∀ i, i < n → t.pbByte i = s.fbByte (5 + i)) ∧ SamePbFrom n s t ∧ SameFbFrom 0 s t ∧ SameWorld s t ∧
        t.regs = { s.regs with plen := BitVec.ofNat 17 n, err := 0#8 })

/-- No instruction's result depends on an FB byte at or beyond FLEN or FB_CAP: from two states that agree on everything but such bytes, the same registers and the same PB follow, and FB bytes that agreed before agree after (42_decode.md, Common rules of the decoders; an inference the spec marks as its own). -/
def Obligations.CommandsReadOnlyTheFrame : Prop :=
  ∀ (i : Instr) (s s' t : State),
    s'.regs = s.regs → s'.pb = s.pb → SameWorld s s' →
    (∀ a, a < s.regs.flen.toNat → a < fbCap → s'.fbByte a = s.fbByte a) →
    exec i s = .next t →
    ∃ t', exec i s' = .next t' ∧ t'.regs = t.regs ∧ t'.pb = t.pb ∧ SameWorld t t' ∧
      ∀ a, s'.fbByte a = s.fbByte a → t'.fbByte a = t.fbByte a

/-! ### The validator (43_check.md) -/

/-- CHECK's four tests in their order: the first that fails decides, the later ones are not made, and CRCCALC is written only when the checksum stage is reached; nothing else but ERR changes (43_check.md R151, R150). -/
def Obligations.CheckVerdictInOrder : Prop :=
  ∀ (s : State) (n l r : Nat) (c : Word),
    n = s.regs.flen.toNat → l = (s.fbByte 3).toNat * 256 + (s.fbByte 4).toNat →
    c = crc32 s.cfg.crc (s.fbBytes 0 (n - 4)) →
    r = (s.fbByte (n - 4)).toNat + (s.fbByte (n - 3)).toNat * 2 ^ 8 + (s.fbByte (n - 2)).toNat * 2 ^ 16 +
      (s.fbByte (n - 1)).toNat * 2 ^ 24 →
    exec .check s = .next (
      if n < 9 then { s with regs.err := 1#8 }
      else if 2 < (s.fbByte 0).toNat then { s with regs.err := 2#8 }
      else if l + 9 ≠ n then { s with regs.err := 3#8 }
      else if c.toNat ≠ r then { s with regs.crccalc := c, regs.err := 4#8 }
      else { s with regs.crccalc := c, regs.err := 0#8 })

/-- CHECK run twice gives the same answer and changes nothing the second time (43_check.md, corner cases). -/
def Obligations.CheckRepeatsItsAnswer : Prop :=
  ∀ s t : State, exec .check s = .next t → exec .check t = .next t

/-- Under the default CRC parameters, replacing any one byte of a valid frame by a different value is always detected, with the answer the spec's table gives for the byte's place (43_check.md, tamper detection; an inference the spec marks as its own). -/
def Obligations.TamperedByteIsDetected : Prop :=
  ∀ (s : State) (i : Nat) (b : Byte), s.cfg.crc = CrcParams.standard → s.ValidFrame →
    i < s.regs.flen.toNat → b ≠ s.fbByte i →
    ∃ t, exec .check (s.writeBuf .fb i b) = .next t ∧
      t.regs.err =
        if i = 0 ∧ 2 < b.toNat then 2#8
        else if i = 3 ∨ i = 4 then 3#8
        else 4#8

/-! ### The classifier and the frame kinds (44_classify.md) -/

/-- The complete table of CLASSIFY's outcomes, row by row (the halt gate, the validation stage, the dispatch stage with its three kinds and its failures): for every state a next state, with ERR, EVT, HALT, RTYPE, RID, RSTATUS, PB, PLEN and CRCCALC as the row says and everything else unchanged (44_classify.md R160, R162, R163, R165). -/
def Obligations.ClassifyOutcomes : Prop :=
  ∀ (s : State) (n k l : Nat) (c : Word) (halt : BitVec 1) (s1 : State),
    n = s.regs.flen.toNat → k = (s.fbByte 0).toNat → l = s.frameLength.toNat →
    c = crc32 s.cfg.crc (s.fbBytes 0 (n - 4)) →
    halt = (if s.fatalen then 1#1 else s.regs.status) →
    s1 = (if s.chken then { s with regs.crccalc := c } else s) →
    ∃ t, exec .classify s = .next t ∧
      if s.halt then t = { s with regs.evt := 0#4, regs.err := 8#8 }
      else if s.chken ∧ n < 9 then t = { s with regs.evt := 0#4, regs.err := 1#8 }
      else if s.chken ∧ 2 < k then t = { s with regs.evt := 0#4, regs.err := 2#8 }
      else if s.chken ∧ l + 9 ≠ n then t = { s with regs.evt := 0#4, regs.err := 3#8 }
      else if s.chken ∧ c ≠ s.frameTrailer n then t = { s1 with regs.evt := 0#4, regs.err := 4#8 }
      else if n = 0 then t = { s1 with regs.evt := 0#4, regs.status := halt, regs.err := 5#8 }
      else if 2 < k then
        t = { s1 with regs.evt := 0#4, regs.status := halt, regs.rtype := s.fbByte 0, regs.err := 7#8 }
      else if (k = 0 ∧ (n < 5 ∨ n < 5 + l)) ∨ (k = 1 ∧ n < 3) ∨ (k = 2 ∧ n < 5) then
        t = { s1 with regs.evt := 0#4, regs.status := halt, regs.rtype := s.fbByte 0, regs.err := 5#8 }
      else if k = 0 then
        t.regs = { s1.regs with
          rtype := 0#8, rid := s.frameId, plen := BitVec.ofNat 17 l, evt := 0b1100#4, err := 0#8 } ∧
        (∀ i, i < l → t.pbByte i = s.fbByte (5 + i)) ∧ SamePbFrom l s t ∧ SameFbFrom 0 s t ∧ SameWorld s t
      else if k = 1 then
        t = { s1 with regs.rtype := 1#8, regs.rid := s.frameId, regs.evt := 0b0101#4, regs.err := 0#8 }
      else
        t = { s1 with
          regs.rtype := 2#8, regs.rid := s.frameId, regs.rstatus := s.frameLength, regs.evt := 0b0110#4, regs.err := 0#8 }

/-- CLASSIFY's validation stage is exactly CHECK: a frame CHECK rejects is rejected with CHECK's answer and CHECK's CRCCALC, EVT cleared and nothing else written; a frame CHECK accepts is reported with CHECK's CRCCALC; with CHKEN 0 the stage is skipped and CRCCALC not written (44_classify.md, the validation stage). -/
def Obligations.ClassifyValidationIsCheck : Prop :=
  ∀ s : State, s.halt = false →
    (s.chken = true → ∃ u, exec .check s = .next u ∧
      (u.regs.err ≠ 0#8 → exec .classify s = .next { u with regs.evt := 0#4 }) ∧
      (u.regs.err = 0#8 → ∃ t, exec .classify s = .next t ∧ t.regs.err = 0#8 ∧ t.evtValid = true ∧
        t.regs.crccalc = u.regs.crccalc)) ∧
    (s.chken = false → ∃ t, exec .classify s = .next t ∧ t.regs.crccalc = s.regs.crccalc)

/-- With CHKEN 1 a CLASSIFY never answers E_TRUNCATED or E_UNKNOWN_TYPE and never changes HALT; with CHKEN 0 it never answers one of CHECK's four errors (44_classify.md, the paragraph after the kinds; an inference the spec marks as its own). -/
def Obligations.CheckedClassifyNeverHalts : Prop :=
  ∀ s : State, ∃ t, exec .classify s = .next t ∧
    (s.chken = true → t.regs.err ≠ 5#8 ∧ t.regs.err ≠ 7#8 ∧ t.regs.status = s.regs.status) ∧
    (s.chken = false → t.regs.err ≠ 1#8 ∧ t.regs.err ≠ 2#8 ∧ t.regs.err ≠ 3#8 ∧ t.regs.err ≠ 4#8)

/-- CLASSIFY reports every frame it is given: run again on a frame it has just reported, it reports the same event and changes nothing (44_classify.md, corner cases; an inference the spec marks as its own). -/
def Obligations.ClassifyRepeatsEvents : Prop :=
  ∀ s t : State, exec .classify s = .next t → t.evtValid = true → exec .classify t = .next t

/-- The frame kind DATA: RID, PB, PLEN, EVT with ACKREQ, VALID and KIND 0, and ERR; PB beyond the payload, FB and every other register unchanged (44_classify.md R163, classify_data). -/
def Obligations.DataKindReportsPayload : Prop :=
  ∀ (s : State) (id : Half) (payload : List Byte), payload.length ≤ 65535 →
    ∃ t, exec (.data id payload) s = .next t ∧
      PbHolds t payload ∧ SamePbFrom payload.length s t ∧ SameFbFrom 0 s t ∧ SameWorld s t ∧
      t.evtAckreq = true ∧ t.evtValid = true ∧ t.evtKind = 0#2 ∧
      t.regs = { s.regs with
        rid := id, plen := BitVec.ofNat 17 payload.length, evt := 0b1100#4, err := 0#8 }

/-- The frame kinds ACK and NACK: RID (and RSTATUS for a NACK), EVT with VALID and the kind's number, and ERR; nothing else (44_classify.md R163, classify_ack and classify_nack). -/
def Obligations.AckAndNackKindsReport : Prop :=
  ∀ (s : State) (id status : Half),
    exec (.ack id) s = .next { s with regs.rid := id, regs.evt := 0b0101#4, regs.err := 0#8 } ∧
    exec (.nack id status) s =
      .next { s with regs.rid := id, regs.rstatus := status, regs.evt := 0b0110#4, regs.err := 0#8 }

/-- A DATA term with more than 65535 payload bytes, which no frame decodes to, is refused by name: the model's choice, log 12 (00_scope.md, the sizes of a frame). -/
def Obligations.DataTermBeyondFieldIsRefused : Prop :=
  ∀ (s : State) (id : Half) (payload : List Byte), 65535 < payload.length →
    exec (.data id payload) s = .refused .payloadExceedsField

/-- HALT becomes 1 in exactly one way: a CLASSIFY command with CHKEN 0 and FATALEN 1 that fails at dispatch with E_UNKNOWN_TYPE or E_TRUNCATED; and it does become 1 then (60_exceptions.md R258). -/
def Obligations.HaltEnteredOnlyByDispatchFailure : Prop :=
  (∀ s t : State, step s = .next t → s.halt = false → t.halt = true →
    ∃ v rest, s.port = commandWrite v :: rest ∧ v.toNat % 256 = 9 ∧ s.chken = false ∧ s.fatalen = true ∧
      (t.regs.err = 7#8 ∨ t.regs.err = 5#8)) ∧
  (∀ (s t : State) (v : Word) (rest : List PortEvent), s.port = commandWrite v :: rest → v.toNat % 256 = 9 →
    s.halt = false → s.chken = false → s.fatalen = true → step s = .next t → t.regs.err ≠ 0#8 → t.halt = true)

/-- Leaving the halted state takes the command SRST or a hardware reset, and either leaves every register at its reset value (60_exceptions.md, return and nesting; 10_state.md, STATUS). -/
def Obligations.HaltLeftOnlyByReset : Prop :=
  ∀ s t : State, step s = .next t → s.halt = true → t.halt = false →
    ((∃ v rest, s.port = commandWrite v :: rest ∧ v.toNat % 256 = 10) ∨ (∃ rest, s.port = .hardReset :: rest)) ∧
      t.regs = Registers.reset

/-- EVT and STATUS change only by CLASSIFY, by the frame kinds it dispatches to and by SRST (10_state.md, EVT and the flags). -/
def Obligations.EventsComeOnlyFromClassify : Prop :=
  ∀ (i : Instr) (s t : State),
    i ∈ [Instr.encData, .encAck, .encNack, .decType, .decId, .decPayload, .decStatus, .check] →
    exec i s = .next t → t.regs.evt = s.regs.evt ∧ t.regs.status = s.regs.status

/-- No instruction but SRST writes TXID, TXSTATUS or CTRL (10_state.md, section 9 and the rules of the operand registers). -/
def Obligations.OperandRegistersAreHostOnly : Prop :=
  ∀ (i : Instr) (s t : State), i ≠ .srst → exec i s = .next t →
    t.regs.txid = s.regs.txid ∧ t.regs.txstatus = s.regs.txstatus ∧ t.regs.ctrl = s.regs.ctrl

/-! ### Errors (60_exceptions.md) -/

/-- Errors are precise: a failing command other than CHECK and CLASSIFY changes ERR alone. CHECK also writes CRCCALC, with the computed CRC, before E_CHECKSUM_MISMATCH and only then. CLASSIFY also clears EVT, writes CRCCALC before E_CHECKSUM_MISMATCH and only then, and at dispatch, the only place where it answers E_TRUNCATED or E_UNKNOWN_TYPE, writes RTYPE when there is a type byte and sets HALT when FATALEN is 1 (60_exceptions.md R256). -/
def Obligations.ErrorsArePrecise : Prop :=
  ∀ (i : Instr) (s t : State), exec i s = .next t → t.regs.err ≠ 0#8 →
    SameBuffers s t ∧ SameWorld s t ∧
    (i ≠ .check → i ≠ .classify → t.regs = { s.regs with err := t.regs.err }) ∧
    (i = .check → t.regs = { s.regs with
      err := t.regs.err
      crccalc := if t.regs.err = 4#8 then crc32 s.cfg.crc (s.fbBytes 0 (s.regs.flen.toNat - 4)) else s.regs.crccalc }) ∧
    (i = .classify → t.regs = { s.regs with
      err := t.regs.err
      evt := 0#4
      crccalc := if t.regs.err = 4#8 then crc32 s.cfg.crc (s.fbBytes 0 (s.regs.flen.toNat - 4)) else s.regs.crccalc
      rtype := if (t.regs.err = 5#8 ∨ t.regs.err = 7#8) ∧ 1 ≤ s.regs.flen.toNat then s.fbByte 0 else s.regs.rtype
      status := if (t.regs.err = 5#8 ∨ t.regs.err = 7#8) ∧ s.fatalen then 1#1 else s.regs.status })

/-- The codes each command can leave in ERR (60_exceptions.md, the table of result codes). -/
def Obligations.ResultCodesByCommand : Prop :=
  ∀ (i : Instr) (s t : State), exec i s = .next t →
    (i = .encData → t.regs.err ∈ [0#8, 6#8]) ∧
    (i ∈ [Instr.encAck, .encNack, .srst] → t.regs.err = 0#8) ∧
    (i ∈ [Instr.decType, .decId, .decPayload, .decStatus] → t.regs.err ∈ [0#8, 5#8]) ∧
    (i = .check → t.regs.err ∈ [0#8, 1#8, 2#8, 3#8, 4#8]) ∧
    (i = .classify → s.chken = true → t.regs.err ∈ [0#8, 1#8, 2#8, 3#8, 4#8, 8#8]) ∧
    (i = .classify → s.chken = false → t.regs.err ∈ [0#8, 5#8, 7#8, 8#8])

/-! ### Control, the port and the step (45_control.md, 20_memory.md) -/

/-- SRST gives every register its reset value, CTRL 3 and every other one 0, and leaves every byte of both buffers (45_control.md R180). -/
def Obligations.SrstResetsRegisters : Prop :=
  ∀ s : State, ∃ t, exec .srst s = .next t ∧
    t.readReg .ctrl = 3#32 ∧ (∀ r, r ≠ .ctrl → t.readReg r = 0#32) ∧ SameBuffers s t ∧ SameWorld s t

/-- A write of a reserved code to CMD sets ERR to 9 and changes nothing else, not EVT, not HALT, not any buffer, halted or not (45_control.md R181, 30_encoding.md R101). -/
def Obligations.ReservedCodeOnlySetsErr : Prop :=
  ∀ (s : State) (v : Word) (rest : List PortEvent), s.port = commandWrite v :: rest →
    v.toNat % 256 = 0 ∨ 0x0B ≤ v.toNat % 256 →
    step s = .next { s with port := rest, answer := .silent, regs.err := 9#8 }

/-- A step runs the decoded instruction: a write to CMD runs what its value decodes to, with the port's oldest event served and no data answered; and a CLASSIFY that reaches dispatch runs the frame kind that the bytes in FB decode to, with RTYPE (and CRCCALC, when it validated) written first. -/
def Obligations.StepRunsDecodedInstruction : Prop :=
  ∀ (s : State) (v : Word) (rest : List PortEvent) (i f : Instr), s.port = commandWrite v :: rest →
    decode (.command v) = .ok i →
    step s = exec i { s with port := rest, answer := .silent } ∧
    (i = .classify → s.halt = false → decode (.frame s.frameBytes) = .ok f →
      (s.chken = false →
        step s = exec f { s with port := rest, answer := .silent, regs.rtype := s.fbByte 0 }) ∧
      (s.chken = true → s.ValidFrame →
        step s = exec f { s with
          port := rest, answer := .silent, regs.rtype := s.fbByte 0
          regs.crccalc := crc32 s.cfg.crc (s.fbBytes 0 (s.regs.flen.toNat - 4)) }))

/-- The host access rules: a read answers its data and changes nothing else; reserved bits read 0; a write to a read-only register changes nothing; two writes that differ in reserved or ignored bits alone do the same; and only a write to CMD (or a hardware reset) starts anything, so that no other event changes a result register (10_state.md R44). -/
def Obligations.HostAccessRules : Prop :=
  (∀ (s : State) (rest : List PortEvent) (r : Reg), s.port = Script.rd r :: rest →
    step s = .next { s with port := rest, answer := .word (s.readReg r) }) ∧
  (∀ (s : State) (rest : List PortEvent) (b : Buf) (i : Nat), i < bufCap b → s.port = Script.rb b i :: rest →
    step s = .next { s with port := rest, answer := .byte (s.readBuf b i) }) ∧
  (∀ (s : State) (r : Reg) (w : Nat),
    (r, w) ∈ [(Reg.cmd, 0), (.ctrl, 2), (.status, 1), (.err, 8), (.evt, 4), (.txid, 16), (.rtype, 8), (.rid, 16),
      (.rstatus, 16), (.flen, 17), (.plen, 17)] →
    (s.readReg r).toNat < 2 ^ w) ∧
  (∀ (s : State) (rest : List PortEvent) (r : Reg) (v : Word),
    r ∈ [Reg.status, .err, .evt, .rtype, .rid, .rstatus, .crccalc] → s.port = Script.wr r v :: rest →
    step s = .next { s with port := rest, answer := .silent }) ∧
  (∀ (s : State) (rest : List PortEvent) (r : Reg) (n : Nat) (v w : Word),
    (r, n) ∈ [(Reg.cmd, 8), (.ctrl, 2), (.txid, 16), (.flen, 17), (.plen, 17)] → v.toNat % 2 ^ n = w.toNat % 2 ^ n →
    step { s with port := Script.wr r v :: rest } = step { s with port := Script.wr r w :: rest }) ∧
  (∀ s t : State, step s = .next t → (∀ v rest, s.port ≠ commandWrite v :: rest) → (∀ rest, s.port ≠ .hardReset :: rest) →
    t.regs = { s.regs with
      ctrl := t.regs.ctrl, txid := t.regs.txid, txstatus := t.regs.txstatus, flen := t.regs.flen, plen := t.regs.plen })

/-- A write to a writable register keeps the low bits that fit and discards the rest, and changes no other register and no byte (10_state.md, the operand registers; 45_control.md, truncation on the way in). -/
def Obligations.HostWritesKeepLowBits : Prop :=
  ∀ (s : State) (rest : List PortEvent) (r : Reg) (v : Word) (w : Nat),
    (r, w) ∈ [(Reg.ctrl, 2), (.txid, 16), (.txstatus, 32), (.flen, 17), (.plen, 17)] → s.port = Script.wr r v :: rest →
    ∃ t, step s = .next t ∧ (t.readReg r).toNat = v.toNat % 2 ^ w ∧ (∀ q, q ≠ r → t.readReg q = s.readReg q) ∧
      SameBuffers s t ∧ t.cfg = s.cfg ∧ t.epoch = s.epoch ∧ t.port = rest ∧ t.answer = .silent

/-- A buffer byte written by the host reads back; every other byte of both buffers and every register are unchanged (20_memory.md, access widths, atomicity, side effects). -/
def Obligations.BufferByteReadsBack : Prop :=
  ∀ (s : State) (rest : List PortEvent) (b : Buf) (i : Nat) (v : Byte), i < bufCap b → s.port = Script.wb b i v :: rest →
    ∃ t, step s = .next t ∧ t.readBuf b i = v ∧ (∀ b' j, (b', j) ≠ (b, i) → t.readBuf b' j = s.readBuf b' j) ∧
      t.regs = s.regs ∧ t.cfg = s.cfg ∧ t.epoch = s.epoch ∧ t.port = rest ∧ t.answer = .silent

/-- An access of the wrong width, a misaligned register access and an access to an unmapped offset are refused (20_memory.md R66, R71). -/
def Obligations.AccessesOutsideTheMapAreRefused : Prop :=
  ∀ (s : State) (rest : List PortEvent) (bits o : Nat) (v : Word),
    (o < 0x34 ∧ (bits ≠ 32 ∨ o % 4 ≠ 0)) ∨
    (((0x10000 ≤ o ∧ o ≤ 0x20007) ∨ (0x30000 ≤ o ∧ o ≤ 0x3FFFE)) ∧ bits ≠ 8) ∨
    (0x34 ≤ o ∧ o ≤ 0xFFFF) ∨ (0x20008 ≤ o ∧ o ≤ 0x2FFFF) ∨ o = 0x3FFFF →
    (s.port = .read bits (BitVec.ofNat 32 o) :: rest → ∃ r, step s = .refused r) ∧
    (s.port = .write bits (BitVec.ofNat 32 o) v :: rest → ∃ r, step s = .refused r)

/-- An access at an offset of 2^18 or above, outside the block's window, ends in the fault outsideWindow: the model's choice, log 4 (20_memory.md, address map). -/
def Obligations.OutsideWindowFaults : Prop :=
  ∀ (s : State) (rest : List PortEvent) (bits : Nat) (offset v : Word), 262144 ≤ offset.toNat →
    (s.port = .read bits offset :: rest ∨ s.port = .write bits offset v :: rest) → step s = .fault .outsideWindow

/-- The address map: a 32-bit read at each register's offset answers that register, an 8-bit read at 0x10000 + i or 0x30000 + i answers FB[i] or PB[i] (20_memory.md, address map). -/
def Obligations.AddressMapServes : Prop :=
  ∀ (s : State) (rest : List PortEvent),
    (∀ o r, (o, r) ∈ [(0x00#32, Reg.cmd), (0x04#32, .ctrl), (0x08#32, .status), (0x0C#32, .err), (0x10#32, .evt),
        (0x14#32, .txid), (0x18#32, .txstatus), (0x1C#32, .rtype), (0x20#32, .rid), (0x24#32, .rstatus),
        (0x28#32, .crccalc), (0x2C#32, .flen), (0x30#32, .plen)] →
      step { s with port := .read 32 o :: rest } = .next { s with port := rest, answer := .word (s.readReg r) }) ∧
    (∀ i, i < 65544 → step { s with port := .read 8 (BitVec.ofNat 32 (0x10000 + i)) :: rest } =
      .next { s with port := rest, answer := .byte (s.fbByte i) }) ∧
    (∀ i, i < 65535 → step { s with port := .read 8 (BitVec.ofNat 32 (0x30000 + i)) :: rest } =
      .next { s with port := rest, answer := .byte (s.pbByte i) })

/-- A run all of whose waiting events are the four operations of the port or hardware resets never stops, whatever the state, the commands and the data (20_memory.md, address map; 46_host_engine.md, the host's liberties). -/
def Obligations.ServedAccessesNeverStop : Prop :=
  ∀ (k : Nat) (s : State), (∀ e ∈ s.port, Served e) → SafeRun k s

/-- The port serves one event a step, in arrival order, and an empty port leaves everything as it is (20_memory.md, ordering and synchronisation; 60_exceptions.md, power states). -/
def Obligations.PortServesInArrivalOrder : Prop :=
  (∀ s t : State, step s = .next t → t.port = s.port.tail) ∧ (∀ s : State, s.port = [] → step s = .next s)

/-! ### Reset and invariants (70_reset_and_hazards.md, 10_state.md) -/

/-- After reset CTRL reads 3 and every other register 0, and each buffer byte is the free value of its index (10_state.md, reset values; the free value's form is the model's, log 5). -/
def Obligations.ResetRegisterValues : Prop :=
  State.reset.readReg .ctrl = 3#32 ∧ (∀ r, r ≠ .ctrl → State.reset.readReg r = 0#32) ∧
    (∀ i, State.reset.fbByte i = Config.fbUnwritten 0 i) ∧ (∀ i, State.reset.pbByte i = Config.pbUnwritten 0 i)

/-- A hardware reset brings back the reset state with fresh unspecified buffer bytes; the parameters and the events still waiting are kept: the model's form of it, log 6 (70_reset_and_hazards.md, reset). -/
def Obligations.HardResetRestoresReset : Prop :=
  ∀ (s : State) (rest : List PortEvent), s.port = .hardReset :: rest →
    step s = .next { State.reset with epoch := s.epoch + 1, cfg := s.cfg, port := rest }

/-- The reset state meets the invariant. -/
def Obligations.ResetMeetsInvariant : Prop := State.reset.Inv

/-- Every step keeps the invariant: both buffers stay in canonical form, EVT stays one of its four values, ERR one of the ten codes, and no event stands while HALT is 1 (10_state.md, EVT; 60_exceptions.md, error causes and codes; 44_classify.md). -/
def Obligations.StepKeepsInvariant : Prop := ∀ s t : State, s.Inv → step s = .next t → t.Inv

/-- No step changes the block's parameters (10_state.md R20); and only a hardware reset makes unwritten bytes unspecified anew, by changing `epoch`: the model's form of 10_state.md R42 and 70_reset_and_hazards.md R290, logs 5 and 6. -/
def Obligations.ParametersNeverChange : Prop :=
  ∀ s t : State, step s = .next t → t.cfg = s.cfg ∧ ((∀ rest, s.port ≠ .hardReset :: rest) → t.epoch = s.epoch)

/-! ### Decoding and encoding (30_encoding.md) -/

/-- Decode and encode agree on every well-formed instruction, command or frame, under any CRC parameters. -/
def Obligations.DecodeEncodeRoundTrip : Prop :=
  ∀ (p : CrcParams) (i : Instr), i.wellFormed = true → decode (encode p i) = .ok i

/-- A command value that decodes is, but for its ignored bits [31:8], the value the encoder gives for what it decodes to (30_encoding.md, the command). -/
def Obligations.CommandDecodingIsInvertible : Prop :=
  ∀ (p : CrcParams) (w : Word) (i : Instr), decode (.command w) = .ok i → encode p i = .command (w &&& 0xFF#32)

/-- Whatever decodes is well formed: a received frame never gives a payload longer than the length field can declare (00_scope.md, the sizes of a frame). -/
def Obligations.DecodedInstructionsAreWellFormed : Prop :=
  ∀ (c : Code) (i : Instr), decode c = .ok i → i.wellFormed = true

/-- A command is one 32-bit write to CMD: bits [7:0] of the value select the command, which runs, and bits [31:8] are ignored; every other code is reserved (30_encoding.md R100). -/
def Obligations.CommandCodesDecode : Prop :=
  (∀ (w : Word) (n : Nat) (i : Instr),
    (n, i) ∈ [(1, Instr.encData), (2, .encAck), (3, .encNack), (4, .decType), (5, .decId), (6, .decPayload),
      (7, .decStatus), (8, .check), (9, .classify), (10, .srst)] →
    w.toNat % 256 = n →
    decode (.command w) = .ok i ∧
      ∀ (s : State) (rest : List PortEvent), s.port = commandWrite w :: rest →
        step s = exec i { s with port := rest, answer := .silent }) ∧
  (∀ w : Word, w.toNat % 256 = 0 ∨ 11 ≤ w.toNat % 256 → decode (.command w) = .error .reservedCode)

/-- The type byte alone selects the frame kind: 0 gives DATA, 1 ACK, 2 NACK, and 3 to 255 no frame at all, whatever follows (30_encoding.md R92, R96). -/
def Obligations.FrameTypeByteSelectsKind : Prop :=
  ∀ (t : Byte) (rest : List Byte),
    (2 < t.toNat → decode (.frame (t :: rest)) = .error (.frame .unknownType)) ∧
    (∀ i, decode (.frame (t :: rest)) = .ok i →
      (t.toNat = 0 ∧ ∃ id payload, i = .data id payload) ∨ (t.toNat = 1 ∧ ∃ id, i = .ack id) ∨
        (t.toNat = 2 ∧ ∃ id status, i = .nack id status))

/-- Words and frames written out from the spec's encodings decode to the instruction they stand for (30_encoding.md, section 3; 95_test_vectors.md, V-ENC-1, V-ENC-13, V-ENC-7). -/
def Obligations.WrittenOutWordsDecode : Prop :=
  decode (.command 0x00000001#32) = .ok .encData ∧ decode (.command 0x00000008#32) = .ok .check ∧
    decode (.command 0xFFFFFF0A#32) = .ok .srst ∧
    decode (.frame [0x00, 0x00, 0x00, 0x00, 0x02, 0x68, 0x69, 0x43, 0x33, 0xA2, 0x07]) = .ok (.data 0#16 [0x68, 0x69]) ∧
    decode (.frame [0x01, 0xFF, 0xFF, 0x00, 0x00, 0xB1, 0xEC, 0xDF, 0x9B]) = .ok (.ack 0xFFFF#16) ∧
    decode (.frame [0x02, 0x00, 0x05, 0x00, 0x34, 0x23, 0x92, 0x9D, 0x9B]) = .ok (.nack 5#16 0x34#16)

/-! ### The CRC function (40_crc.md) -/

/-- For the default parameters the parameterised form and the right-shifting form of the CRC are one function (40_crc.md, what the source fixes and what it does not). -/
def Obligations.CrcFormsAgree : Prop := ∀ s : List Byte, crc32 CrcParams.standard s = crc32Right s

/-- The known values of the CRC under the default parameters (40_crc.md, the known values). -/
def Obligations.CrcKnownValues : Prop :=
  crc32 CrcParams.standard [] = 0x00000000#32 ∧
    crc32 CrcParams.standard [0x31, 0x32, 0x33, 0x34, 0x35, 0x36, 0x37, 0x38, 0x39] = 0xCBF43926#32 ∧
    crc32 CrcParams.standard [0x00] = 0xD202EF8D#32 ∧
    crc32 CrcParams.standard [0xFF, 0xFF, 0xFF, 0xFF] = 0xFFFFFFFF#32 ∧
    crc32 CrcParams.standard [0x61] = 0xE8B7BE43#32 ∧
    crc32 CrcParams.standard [0x01, 0x00, 0x00, 0x00, 0x00] = 0xFB42DEAD#32 ∧
    crc32 CrcParams.standard [0x00, 0x00, 0x00, 0x00, 0x02, 0x68, 0x69] = 0x07A23343#32
end

