-- ==== Sys2Proof/Laws/Crc.lean ====
section
/-! SUPPORT. The laws of `crc32`: the empty message, and the register after one more byte or a joined message. -/

namespace Sys2Proof.Machine

/-- The register after a message, before the final reflection and exclusive-or (40_crc.md R120). -/
def crcRegister (p : CrcParams) (s : List Byte) : Word := s.foldl (crcByte p) p.init

theorem crcRegister_nil (p : CrcParams) : crcRegister p [] = p.init := rfl

theorem crcRegister_append (p : CrcParams) (s t : List Byte) :
    crcRegister p (s ++ t) = t.foldl (crcByte p) (crcRegister p s) := List.foldl_append ..

theorem crcRegister_snoc (p : CrcParams) (s : List Byte) (b : Byte) :
    crcRegister p (s ++ [b]) = crcByte p (crcRegister p s) b := by
  rw [crcRegister_append, List.foldl_cons, List.foldl_nil]

/-- `crc32` is the register, reflected if the parameters say so, with the final exclusive-or. -/
theorem crc32_eq (p : CrcParams) (s : List Byte) :
    crc32 p s = (if p.refout then reverse32 (crcRegister p s) else crcRegister p s) ^^^ p.xorout := rfl

end Sys2Proof.Machine
end

