-- ==== Sys2Proof/Laws/Decode.lean ====
section
/-! SUPPORT. The laws of the field helpers, of the decoder and of the encoder's parts. -/

namespace Sys2Proof

/-- `be16` as a number: the first byte weighs 256 (00_scope.md R16). -/
theorem be16_toNat (hi lo : Byte) : (be16 hi lo).toNat = hi.toNat * 256 + lo.toNat := by
  rw [be16, BitVec.toNat_append, Nat.shiftLeft_eq, Nat.mul_comm hi.toNat, ← Nat.two_pow_add_eq_or_of_lt lo.isLt]

@[simp] theorem bytesBe16_length (v : Half) : (bytesBe16 v).length = 2 := rfl

@[simp] theorem bytesLe32_length (v : Word) : (bytesLe32 v).length = 4 := rfl

/-- Splitting a 16-bit field into bytes and joining them again. -/
theorem be16_extract (v : Half) : be16 (v.extractLsb' 8 8) (v.extractLsb' 0 8) = v := by
  apply BitVec.eq_of_toNat_eq
  rw [be16_toNat]
  simp only [BitVec.extractLsb'_toNat, Nat.shiftRight_eq_div_pow]
  have := v.isLt
  omega

/-- `le32` as a number: the last byte weighs most (00_scope.md R16). -/
theorem le32_toNat (b0 b1 b2 b3 : Byte) :
    (le32 b0 b1 b2 b3).toNat = b0.toNat + b1.toNat * 2 ^ 8 + b2.toNat * 2 ^ 16 + b3.toNat * 2 ^ 24 := by
  have h0 := b0.isLt
  have h1 := b1.isLt
  have h2 := b2.isLt
  rw [le32, BitVec.toNat_append, BitVec.toNat_append, BitVec.toNat_append]
  rw [Nat.shiftLeft_eq, Nat.shiftLeft_eq, Nat.shiftLeft_eq]
  rw [Nat.mul_comm b3.toNat, ← Nat.two_pow_add_eq_or_of_lt h2, Nat.mul_comm (_ + _), ← Nat.two_pow_add_eq_or_of_lt h1,
    Nat.mul_comm (_ + _), ← Nat.two_pow_add_eq_or_of_lt h0]
  omega

/-- Splitting a 32-bit value into bytes and joining them again. -/
theorem le32_extract (v : Word) :
    le32 (v.extractLsb' 0 8) (v.extractLsb' 8 8) (v.extractLsb' 16 8) (v.extractLsb' 24 8) = v := by
  apply BitVec.eq_of_toNat_eq
  rw [le32_toNat]
  simp only [BitVec.extractLsb'_toNat, Nat.shiftRight_eq_div_pow]
  have := v.isLt
  omega

@[simp] theorem frameCovered_length (type : Byte) (id lengthField : Half) (payload : List Byte) :
    (frameCovered type id lengthField payload).length = payload.length + 5 := by
  simp [frameCovered]
  omega

@[simp] theorem withTrailer_length (p : CrcParams) (covered : List Byte) :
    (withTrailer p covered).length = covered.length + 4 := by
  simp [withTrailer]

/-- Everything the frame decoder can answer with a frame: the kind its type byte names, with the fields at their offsets and a payload of the declared length. -/
theorem decodeFrame_ok {bytes : List Byte} {f : Frame} (h : decodeFrame bytes = .ok f) :
    (∃ i1 i0 l1 l0 rest, bytes = 0#8 :: i1 :: i0 :: l1 :: l0 :: rest ∧ (be16 l1 l0).toNat ≤ rest.length ∧
        f = .data (be16 i1 i0) (rest.take (be16 l1 l0).toNat)) ∨
    (∃ i1 i0 rest, bytes = 1#8 :: i1 :: i0 :: rest ∧ f = .ack (be16 i1 i0)) ∨
    (∃ i1 i0 s1 s0 rest, bytes = 2#8 :: i1 :: i0 :: s1 :: s0 :: rest ∧ f = .nack (be16 i1 i0) (be16 s1 s0)) := by
  unfold decodeFrame at h
  split at h
  · cases h
  next t rest =>
    split at h
    next ht =>
      have ht : t = 0#8 := BitVec.eq_of_toNat_eq ht
      unfold decodeDataFields at h
      split at h
      · split at h
        · cases h
          subst ht
          exact .inl ⟨_, _, _, _, _, rfl, by assumption, rfl⟩
        · cases h
      · cases h
    next ht =>
      have ht : t = 1#8 := BitVec.eq_of_toNat_eq ht
      unfold decodeAckFields at h
      split at h
      · cases h
        subst ht
        exact .inr (.inl ⟨_, _, _, rfl, rfl⟩)
      · cases h
    next ht =>
      have ht : t = 2#8 := BitVec.eq_of_toNat_eq ht
      unfold decodeNackFields at h
      split at h
      · cases h
        subst ht
        exact .inr (.inr ⟨_, _, _, _, _, rfl, rfl⟩)
      · cases h
    · cases h

/-- A decoded DATA frame has at most 65535 payload bytes. -/
theorem decodeFrame_payload_le {bytes payload : List Byte} {id : Half} (h : decodeFrame bytes = .ok (.data id payload)) :
    payload.length ≤ maxPayload := by
  rcases decodeFrame_ok h with ⟨i1, i0, l1, l0, rest, -, -, hf⟩ | ⟨_, _, _, -, hf⟩ | ⟨_, _, _, _, _, -, hf⟩
  · cases hf
    have := (be16 l1 l0).isLt
    simp only [List.length_take, maxPayload]
    omega
  · cases hf
  · cases hf

end Sys2Proof
end

