-- ==== Sys2Proof/Laws/Memory.lean ====
section
/-! SUPPORT. The laws of a buffer's contents: read after write, the frame of a write, the canonical form and that a write keeps it, and that contents in canonical form which read alike are equal. -/

namespace Sys2Proof.Machine

@[simp] theorem Memory.read_nil (a : Nat) : Memory.read [] a = none := rfl

theorem Memory.read_cons (k : Nat) (b : Byte) (m : Memory) (a : Nat) :
    Memory.read ((k, b) :: m) a = if k = a then some b else m.read a := rfl

/-- A read of joined contents takes the first part that lists the index. -/
theorem Memory.read_append (m m' : Memory) (a : Nat) :
    Memory.read (m ++ m') a = (m.read a).orElse fun _ => m'.read a := by
  induction m with
  | nil => simp
  | cons c m ih =>
    obtain ⟨k, b⟩ := c
    by_cases h : k = a <;> simp [Memory.read_cons, h, ih]

/-- A filter on indices keeps the bytes it admits and forgets the others. -/
theorem Memory.read_filter (m : Memory) (p : Nat → Bool) (a : Nat) :
    Memory.read (m.filter fun c => p c.1) a = if p a then m.read a else none := by
  induction m with
  | nil => simp
  | cons c m ih =>
    obtain ⟨k, b⟩ := c
    by_cases hk : p k = true <;> by_cases h : k = a
    · subst h; simp [Memory.read_cons, hk]
    · simp [Memory.read_cons, hk, h, ih]
    · subst h; simp [hk, ih]
    · simp [Memory.read_cons, hk, h, ih]

/-- The cells of a stored byte list hold byte `i` at index `a + i` and nothing elsewhere. -/
theorem Memory.read_cellsAt (a : Nat) (bytes : List Byte) (x : Nat) :
    Memory.read (cellsAt a bytes) x = if a ≤ x then bytes[x - a]? else none := by
  induction bytes generalizing a with
  | nil => simp [cellsAt]
  | cons b bytes ih =>
    rw [cellsAt, Memory.read_cons, ih]
    rcases Nat.lt_trichotomy a x with h | rfl | h
    · have e : x - a = (x - (a + 1)) + 1 := by omega
      simp [h.le, h.ne, e, Nat.succ_le_of_lt h]
    · simp
    · simp [Nat.not_le.mpr h, h.ne', show ¬ a + 1 ≤ x by omega]

/-- Read after write: inside the stored bytes the byte stored, outside them the byte of before. -/
theorem Memory.read_write (m : Memory) (a : Nat) (bytes : List Byte) (x : Nat) :
    (m.write a bytes).read x = if a ≤ x ∧ x < a + bytes.length then bytes[x - a]? else m.read x := by
  have hl : Memory.read (m.filter fun c => decide (c.1 < a)) x = if x < a then m.read x else none := by
    simpa using Memory.read_filter m (fun k => decide (k < a)) x
  have hr : Memory.read (m.filter fun c => decide (a + bytes.length ≤ c.1)) x =
      if a + bytes.length ≤ x then m.read x else none := by
    simpa using Memory.read_filter m (fun k => decide (a + bytes.length ≤ k)) x
  rw [Memory.write, Memory.read_append, Memory.read_append, hl, hr, Memory.read_cellsAt]
  by_cases h1 : x < a
  · simp [h1, Nat.not_le.mpr h1, show ¬ a + bytes.length ≤ x by omega]
  · by_cases h2 : x < a + bytes.length
    · have hx : x - a < bytes.length := by omega
      simp [h1, h2, Nat.not_lt.mp h1, hx]
    · have hx : bytes.length ≤ x - a := by omega
      simp [h1, h2, Nat.not_lt.mp h2, Nat.not_lt.mp h1, hx]

theorem Memory.read_write_inside (m : Memory) (a : Nat) (bytes : List Byte) (i : Nat) (h : i < bytes.length) :
    (m.write a bytes).read (a + i) = some bytes[i] := by
  rw [Memory.read_write, if_pos ⟨by omega, by omega⟩]
  simp [h]

theorem Memory.read_write_outside (m : Memory) (a : Nat) (bytes : List Byte) (x : Nat)
    (h : x < a ∨ a + bytes.length ≤ x) : (m.write a bytes).read x = m.read x := by
  rw [Memory.read_write, if_neg (by omega)]

/-- The canonical form, as order and bound. -/
theorem Memory.wf_iff (cap : Nat) (m : Memory) :
    m.wf cap = true ↔ m.Pairwise (fun c d => c.1 < d.1) ∧ ∀ c ∈ m, c.1 < cap := by
  induction m with
  | nil => simp [Memory.wf]
  | cons c m ih =>
    obtain ⟨k, b⟩ := c
    cases m with
    | nil => simp [Memory.wf]
    | cons d m =>
      obtain ⟨k', b'⟩ := d
      rw [Memory.wf, Bool.and_eq_true, ih]
      simp only [decide_eq_true_eq, List.pairwise_cons, List.mem_cons, forall_eq_or_imp]
      constructor
      · rintro ⟨hk, ⟨h1, h2⟩, h3, h4⟩
        exact ⟨⟨⟨hk, fun c hc => hk.trans (h1 c hc)⟩, h1, h2⟩, hk.trans h3, h3, h4⟩
      · rintro ⟨⟨⟨hk, -⟩, h1, h2⟩, -, h3, h4⟩
        exact ⟨hk, ⟨h1, h2⟩, h3, h4⟩

@[simp] theorem Memory.wf_nil (cap : Nat) : Memory.wf cap [] = true := rfl

theorem cellsAt_mem (a : Nat) (bytes : List Byte) (c : Host.Cell) (h : c ∈ cellsAt a bytes) :
    a ≤ c.1 ∧ c.1 < a + bytes.length := by
  induction bytes generalizing a with
  | nil => simp [cellsAt] at h
  | cons b bytes ih =>
    rw [cellsAt, List.mem_cons] at h
    rcases h with rfl | h
    · simp
    · have := ih (a + 1) h
      simp only [List.length_cons]
      omega

theorem cellsAt_pairwise (a : Nat) (bytes : List Byte) :
    (cellsAt a bytes).Pairwise (fun c d => c.1 < d.1) := by
  induction bytes generalizing a with
  | nil => simp [cellsAt]
  | cons b bytes ih =>
    rw [cellsAt, List.pairwise_cons]
    exact ⟨fun c hc => (cellsAt_mem _ _ _ hc).1, ih _⟩

/-- A write inside the buffer keeps the canonical form. -/
theorem Memory.wf_write {cap : Nat} {m : Memory} (h : m.wf cap = true) (a : Nat) (bytes : List Byte)
    (hb : a + bytes.length ≤ cap) : (m.write a bytes).wf cap = true := by
  rw [Memory.wf_iff] at h ⊢
  obtain ⟨hp, hc⟩ := h
  constructor
  · rw [Memory.write, List.pairwise_append, List.pairwise_append]
    refine ⟨⟨hp.filter _, cellsAt_pairwise a bytes, ?_⟩, hp.filter _, ?_⟩
    · intro c h1 d h2
      have := cellsAt_mem _ _ _ h2
      simp only [List.mem_filter, decide_eq_true_eq] at h1
      omega
    · intro c h1 d h2
      simp only [List.mem_filter, decide_eq_true_eq] at h2
      rcases List.mem_append.mp h1 with h1 | h1
      · simp only [List.mem_filter, decide_eq_true_eq] at h1
        omega
      · have := cellsAt_mem _ _ _ h1
        omega
  · intro c h1
    rw [Memory.write, List.mem_append, List.mem_append] at h1
    rcases h1 with (h1 | h1) | h1
    · exact hc c (List.mem_filter.mp h1).1
    · have := cellsAt_mem _ _ _ h1
      omega
    · exact hc c (List.mem_filter.mp h1).1

/-- Writing the same bytes at the same index a second time changes nothing. -/
theorem Memory.write_write (m : Memory) (a : Nat) (bytes : List Byte) : (m.write a bytes).write a bytes = m.write a bytes := by
  have hc : ∀ c ∈ cellsAt a bytes, a ≤ c.1 ∧ c.1 < a + bytes.length := fun c h => by
    have := cellsAt_mem a bytes c h
    omega
  have e1 : List.filter (fun c => decide (c.1 < a)) (cellsAt a bytes) = [] := by
    rw [List.filter_eq_nil_iff]
    intro c h
    have := hc c h
    simp
    omega
  have e2 : List.filter (fun c => decide (a + bytes.length ≤ c.1)) (cellsAt a bytes) = [] := by
    rw [List.filter_eq_nil_iff]
    intro c h
    have := hc c h
    simp
    omega
  have e3 : List.filter (fun c : Host.Cell => decide (c.1 < a) && decide (a + bytes.length ≤ c.1)) m = [] := by
    rw [List.filter_eq_nil_iff]
    intro c _
    simp
    omega
  have e4 : List.filter (fun c : Host.Cell => decide (a + bytes.length ≤ c.1) && decide (c.1 < a)) m = [] := by
    rw [List.filter_eq_nil_iff]
    intro c _
    simp
    omega
  unfold Memory.write
  simp only [List.filter_append, List.filter_filter, e1, e2, e3, e4, Bool.and_self, List.append_nil, List.nil_append]


theorem Memory.read_eq_none_of_lt {m : Memory} {a : Nat} (h : ∀ c ∈ m, a < c.1) : m.read a = none := by
  induction m with
  | nil => rfl
  | cons c m ih =>
    obtain ⟨k, b⟩ := c
    have hk : a < k := h (k, b) (by simp)
    rw [Memory.read_cons, if_neg hk.ne']
    exact ih fun c hc => h c (by simp [hc])

/-- Contents in canonical form that read alike at every index are the same data. -/
theorem Memory.eq_of_read {cap : Nat} {m m' : Memory} (h : m.wf cap = true) (h' : m'.wf cap = true)
    (hr : ∀ a, m.read a = m'.read a) : m = m' := by
  rw [Memory.wf_iff] at h h'
  replace h := h.1
  replace h' := h'.1
  induction m generalizing m' with
  | nil =>
    cases m' with
    | nil => rfl
    | cons d m' =>
      have := hr d.1
      rw [show d = (d.1, d.2) from rfl, Memory.read_cons] at this
      simp at this
  | cons c m ih =>
    cases m' with
    | nil =>
      have := hr c.1
      rw [show c = (c.1, c.2) from rfl, Memory.read_cons] at this
      simp at this
    | cons d m' =>
      obtain ⟨k, b⟩ := c
      obtain ⟨k', b'⟩ := d
      rw [List.pairwise_cons] at h h'
      have hk : k = k' := by
        rcases Nat.lt_trichotomy k k' with hlt | heq | hlt
        · have e := hr k
          rw [Memory.read_eq_none_of_lt (m := (k', b') :: m')] at e
          · simp [Memory.read_cons] at e
          · intro c hc
            rcases List.mem_cons.mp hc with rfl | hc
            · exact hlt
            · exact hlt.trans (h'.1 c hc)
        · exact heq
        · have e := hr k'
          rw [Memory.read_eq_none_of_lt (m := (k, b) :: m)] at e
          · simp [Memory.read_cons] at e
          · intro c hc
            rcases List.mem_cons.mp hc with rfl | hc
            · exact hlt
            · exact hlt.trans (h.1 c hc)
      subst hk
      have hb : b = b' := by
        have e := hr k
        simpa [Memory.read_cons] using e
      subst hb
      congr 1
      refine ih (fun a => ?_) h.2 h'.2
      by_cases ha : k = a
      · subst ha
        rw [Memory.read_eq_none_of_lt h.1, Memory.read_eq_none_of_lt h'.1]
      · have e := hr a
        simpa [Memory.read_cons, ha] using e

/-! ### Bytes of the buffers -/

@[simp] theorem State.length_fbBytes (s : State) (a n : Nat) : (s.fbBytes a n).length = n := by
  simp [State.fbBytes]

@[simp] theorem State.length_pbBytes (s : State) (a n : Nat) : (s.pbBytes a n).length = n := by
  simp [State.pbBytes]

theorem State.getElem_fbBytes (s : State) (a n i : Nat) (h : i < (s.fbBytes a n).length) :
    (s.fbBytes a n)[i] = s.fbByte (a + i) := by
  simp [State.fbBytes]

theorem State.getElem_pbBytes (s : State) (a n i : Nat) (h : i < (s.pbBytes a n).length) :
    (s.pbBytes a n)[i] = s.pbByte (a + i) := by
  simp [State.pbBytes]

/-- Ranges of FB that read alike are the same bytes. -/
theorem State.fbBytes_congr {s t : State} {a n : Nat} (h : ∀ i, i < n → s.fbByte (a + i) = t.fbByte (a + i)) :
    s.fbBytes a n = t.fbBytes a n := by
  simp only [State.fbBytes]
  exact List.map_congr_left fun i hi => h i (List.mem_range.mp hi)

/-- FB after a store: inside it the byte stored, outside it the byte of before. -/
theorem State.fbByte_of_write {s t : State} {a : Nat} {bytes : List Byte} (hfb : t.fb = s.fb.write a bytes)
    (he : t.epoch = s.epoch) (x : Nat) :
    t.fbByte x = if h : a ≤ x ∧ x < a + bytes.length then bytes[x - a] else s.fbByte x := by
  rw [State.fbByte, hfb, Memory.read_write, he]
  split
  next h =>
    have : x - a < bytes.length := by omega
    simp [this]
  next => rfl

/-- PB after a store: inside it the byte stored, outside it the byte of before. -/
theorem State.pbByte_of_write {s t : State} {a : Nat} {bytes : List Byte} (hpb : t.pb = s.pb.write a bytes)
    (he : t.epoch = s.epoch) (x : Nat) :
    t.pbByte x = if h : a ≤ x ∧ x < a + bytes.length then bytes[x - a] else s.pbByte x := by
  rw [State.pbByte, hpb, Memory.read_write, he]
  split
  next h =>
    have : x - a < bytes.length := by omega
    simp [this]
  next => rfl

end Sys2Proof.Machine
end

