-- ==== Sys2Proof/Laws/State.lean ====
section
/-! SUPPORT. What each shared update of the state does to each field: one lemma a field, so that no proof unfolds an update. -/

namespace Sys2Proof.Machine

/-! ### `fail` -/

@[simp] theorem State.fail_ctrl (s : State) (e : ErrCode) : (s.fail e).regs.ctrl = s.regs.ctrl := rfl
@[simp] theorem State.fail_status (s : State) (e : ErrCode) : (s.fail e).regs.status = s.regs.status := rfl
@[simp] theorem State.fail_err (s : State) (e : ErrCode) : (s.fail e).regs.err = e.code := rfl
@[simp] theorem State.fail_evt (s : State) (e : ErrCode) : (s.fail e).regs.evt = s.regs.evt := rfl
@[simp] theorem State.fail_txid (s : State) (e : ErrCode) : (s.fail e).regs.txid = s.regs.txid := rfl
@[simp] theorem State.fail_txstatus (s : State) (e : ErrCode) : (s.fail e).regs.txstatus = s.regs.txstatus := rfl
@[simp] theorem State.fail_rtype (s : State) (e : ErrCode) : (s.fail e).regs.rtype = s.regs.rtype := rfl
@[simp] theorem State.fail_rid (s : State) (e : ErrCode) : (s.fail e).regs.rid = s.regs.rid := rfl
@[simp] theorem State.fail_rstatus (s : State) (e : ErrCode) : (s.fail e).regs.rstatus = s.regs.rstatus := rfl
@[simp] theorem State.fail_crccalc (s : State) (e : ErrCode) : (s.fail e).regs.crccalc = s.regs.crccalc := rfl
@[simp] theorem State.fail_flen (s : State) (e : ErrCode) : (s.fail e).regs.flen = s.regs.flen := rfl
@[simp] theorem State.fail_plen (s : State) (e : ErrCode) : (s.fail e).regs.plen = s.regs.plen := rfl
@[simp] theorem State.fail_fb (s : State) (e : ErrCode) : (s.fail e).fb = s.fb := rfl
@[simp] theorem State.fail_pb (s : State) (e : ErrCode) : (s.fail e).pb = s.pb := rfl
@[simp] theorem State.fail_epoch (s : State) (e : ErrCode) : (s.fail e).epoch = s.epoch := rfl
@[simp] theorem State.fail_cfg (s : State) (e : ErrCode) : (s.fail e).cfg = s.cfg := rfl
@[simp] theorem State.fail_port (s : State) (e : ErrCode) : (s.fail e).port = s.port := rfl
@[simp] theorem State.fail_answer (s : State) (e : ErrCode) : (s.fail e).answer = s.answer := rfl

/-! ### `done` -/

@[simp] theorem State.done_ctrl (s : State) : (s.done).regs.ctrl = s.regs.ctrl := rfl
@[simp] theorem State.done_status (s : State) : (s.done).regs.status = s.regs.status := rfl
@[simp] theorem State.done_err (s : State) : (s.done).regs.err = 0#8 := rfl
@[simp] theorem State.done_evt (s : State) : (s.done).regs.evt = s.regs.evt := rfl
@[simp] theorem State.done_txid (s : State) : (s.done).regs.txid = s.regs.txid := rfl
@[simp] theorem State.done_txstatus (s : State) : (s.done).regs.txstatus = s.regs.txstatus := rfl
@[simp] theorem State.done_rtype (s : State) : (s.done).regs.rtype = s.regs.rtype := rfl
@[simp] theorem State.done_rid (s : State) : (s.done).regs.rid = s.regs.rid := rfl
@[simp] theorem State.done_rstatus (s : State) : (s.done).regs.rstatus = s.regs.rstatus := rfl
@[simp] theorem State.done_crccalc (s : State) : (s.done).regs.crccalc = s.regs.crccalc := rfl
@[simp] theorem State.done_flen (s : State) : (s.done).regs.flen = s.regs.flen := rfl
@[simp] theorem State.done_plen (s : State) : (s.done).regs.plen = s.regs.plen := rfl
@[simp] theorem State.done_fb (s : State) : (s.done).fb = s.fb := rfl
@[simp] theorem State.done_pb (s : State) : (s.done).pb = s.pb := rfl
@[simp] theorem State.done_epoch (s : State) : (s.done).epoch = s.epoch := rfl
@[simp] theorem State.done_cfg (s : State) : (s.done).cfg = s.cfg := rfl
@[simp] theorem State.done_port (s : State) : (s.done).port = s.port := rfl
@[simp] theorem State.done_answer (s : State) : (s.done).answer = s.answer := rfl

/-! ### `rejectFrame` -/

@[simp] theorem State.rejectFrame_ctrl (s : State) (e : ErrCode) : (s.rejectFrame e).regs.ctrl = s.regs.ctrl := rfl
@[simp] theorem State.rejectFrame_status (s : State) (e : ErrCode) : (s.rejectFrame e).regs.status = s.regs.status := rfl
@[simp] theorem State.rejectFrame_err (s : State) (e : ErrCode) : (s.rejectFrame e).regs.err = e.code := rfl
@[simp] theorem State.rejectFrame_evt (s : State) (e : ErrCode) : (s.rejectFrame e).regs.evt = evtNone := rfl
@[simp] theorem State.rejectFrame_txid (s : State) (e : ErrCode) : (s.rejectFrame e).regs.txid = s.regs.txid := rfl
@[simp] theorem State.rejectFrame_txstatus (s : State) (e : ErrCode) : (s.rejectFrame e).regs.txstatus = s.regs.txstatus := rfl
@[simp] theorem State.rejectFrame_rtype (s : State) (e : ErrCode) : (s.rejectFrame e).regs.rtype = s.regs.rtype := rfl
@[simp] theorem State.rejectFrame_rid (s : State) (e : ErrCode) : (s.rejectFrame e).regs.rid = s.regs.rid := rfl
@[simp] theorem State.rejectFrame_rstatus (s : State) (e : ErrCode) : (s.rejectFrame e).regs.rstatus = s.regs.rstatus := rfl
@[simp] theorem State.rejectFrame_crccalc (s : State) (e : ErrCode) : (s.rejectFrame e).regs.crccalc = s.regs.crccalc := rfl
@[simp] theorem State.rejectFrame_flen (s : State) (e : ErrCode) : (s.rejectFrame e).regs.flen = s.regs.flen := rfl
@[simp] theorem State.rejectFrame_plen (s : State) (e : ErrCode) : (s.rejectFrame e).regs.plen = s.regs.plen := rfl
@[simp] theorem State.rejectFrame_fb (s : State) (e : ErrCode) : (s.rejectFrame e).fb = s.fb := rfl
@[simp] theorem State.rejectFrame_pb (s : State) (e : ErrCode) : (s.rejectFrame e).pb = s.pb := rfl
@[simp] theorem State.rejectFrame_epoch (s : State) (e : ErrCode) : (s.rejectFrame e).epoch = s.epoch := rfl
@[simp] theorem State.rejectFrame_cfg (s : State) (e : ErrCode) : (s.rejectFrame e).cfg = s.cfg := rfl
@[simp] theorem State.rejectFrame_port (s : State) (e : ErrCode) : (s.rejectFrame e).port = s.port := rfl
@[simp] theorem State.rejectFrame_answer (s : State) (e : ErrCode) : (s.rejectFrame e).answer = s.answer := rfl

/-! ### `dispatchFail` -/

@[simp] theorem State.dispatchFail_ctrl (s : State) (e : ErrCode) : (s.dispatchFail e).regs.ctrl = s.regs.ctrl := by
  unfold State.dispatchFail; split <;> rfl
@[simp] theorem State.dispatchFail_status (s : State) (e : ErrCode) : (s.dispatchFail e).regs.status = if s.fatalen then 1#1 else s.regs.status := by
  unfold State.dispatchFail; split <;> rfl
@[simp] theorem State.dispatchFail_err (s : State) (e : ErrCode) : (s.dispatchFail e).regs.err = e.code := by
  unfold State.dispatchFail; split <;> rfl
@[simp] theorem State.dispatchFail_evt (s : State) (e : ErrCode) : (s.dispatchFail e).regs.evt = evtNone := by
  unfold State.dispatchFail; split <;> rfl
@[simp] theorem State.dispatchFail_txid (s : State) (e : ErrCode) : (s.dispatchFail e).regs.txid = s.regs.txid := by
  unfold State.dispatchFail; split <;> rfl
@[simp] theorem State.dispatchFail_txstatus (s : State) (e : ErrCode) : (s.dispatchFail e).regs.txstatus = s.regs.txstatus := by
  unfold State.dispatchFail; split <;> rfl
@[simp] theorem State.dispatchFail_rtype (s : State) (e : ErrCode) : (s.dispatchFail e).regs.rtype = s.regs.rtype := by
  unfold State.dispatchFail; split <;> rfl
@[simp] theorem State.dispatchFail_rid (s : State) (e : ErrCode) : (s.dispatchFail e).regs.rid = s.regs.rid := by
  unfold State.dispatchFail; split <;> rfl
@[simp] theorem State.dispatchFail_rstatus (s : State) (e : ErrCode) : (s.dispatchFail e).regs.rstatus = s.regs.rstatus := by
  unfold State.dispatchFail; split <;> rfl
@[simp] theorem State.dispatchFail_crccalc (s : State) (e : ErrCode) : (s.dispatchFail e).regs.crccalc = s.regs.crccalc := by
  unfold State.dispatchFail; split <;> rfl
@[simp] theorem State.dispatchFail_flen (s : State) (e : ErrCode) : (s.dispatchFail e).regs.flen = s.regs.flen := by
  unfold State.dispatchFail; split <;> rfl
@[simp] theorem State.dispatchFail_plen (s : State) (e : ErrCode) : (s.dispatchFail e).regs.plen = s.regs.plen := by
  unfold State.dispatchFail; split <;> rfl
@[simp] theorem State.dispatchFail_fb (s : State) (e : ErrCode) : (s.dispatchFail e).fb = s.fb := by
  unfold State.dispatchFail; split <;> rfl
@[simp] theorem State.dispatchFail_pb (s : State) (e : ErrCode) : (s.dispatchFail e).pb = s.pb := by
  unfold State.dispatchFail; split <;> rfl
@[simp] theorem State.dispatchFail_epoch (s : State) (e : ErrCode) : (s.dispatchFail e).epoch = s.epoch := by
  unfold State.dispatchFail; split <;> rfl
@[simp] theorem State.dispatchFail_cfg (s : State) (e : ErrCode) : (s.dispatchFail e).cfg = s.cfg := by
  unfold State.dispatchFail; split <;> rfl
@[simp] theorem State.dispatchFail_port (s : State) (e : ErrCode) : (s.dispatchFail e).port = s.port := by
  unfold State.dispatchFail; split <;> rfl
@[simp] theorem State.dispatchFail_answer (s : State) (e : ErrCode) : (s.dispatchFail e).answer = s.answer := by
  unfold State.dispatchFail; split <;> rfl

/-! ### `resetRegisters` -/

@[simp] theorem State.resetRegisters_ctrl (s : State) : (s.resetRegisters).regs.ctrl = Registers.reset.ctrl := rfl
@[simp] theorem State.resetRegisters_status (s : State) : (s.resetRegisters).regs.status = Registers.reset.status := rfl
@[simp] theorem State.resetRegisters_err (s : State) : (s.resetRegisters).regs.err = Registers.reset.err := rfl
@[simp] theorem State.resetRegisters_evt (s : State) : (s.resetRegisters).regs.evt = Registers.reset.evt := rfl
@[simp] theorem State.resetRegisters_txid (s : State) : (s.resetRegisters).regs.txid = Registers.reset.txid := rfl
@[simp] theorem State.resetRegisters_txstatus (s : State) : (s.resetRegisters).regs.txstatus = Registers.reset.txstatus := rfl
@[simp] theorem State.resetRegisters_rtype (s : State) : (s.resetRegisters).regs.rtype = Registers.reset.rtype := rfl
@[simp] theorem State.resetRegisters_rid (s : State) : (s.resetRegisters).regs.rid = Registers.reset.rid := rfl
@[simp] theorem State.resetRegisters_rstatus (s : State) : (s.resetRegisters).regs.rstatus = Registers.reset.rstatus := rfl
@[simp] theorem State.resetRegisters_crccalc (s : State) : (s.resetRegisters).regs.crccalc = Registers.reset.crccalc := rfl
@[simp] theorem State.resetRegisters_flen (s : State) : (s.resetRegisters).regs.flen = Registers.reset.flen := rfl
@[simp] theorem State.resetRegisters_plen (s : State) : (s.resetRegisters).regs.plen = Registers.reset.plen := rfl
@[simp] theorem State.resetRegisters_fb (s : State) : (s.resetRegisters).fb = s.fb := rfl
@[simp] theorem State.resetRegisters_pb (s : State) : (s.resetRegisters).pb = s.pb := rfl
@[simp] theorem State.resetRegisters_epoch (s : State) : (s.resetRegisters).epoch = s.epoch := rfl
@[simp] theorem State.resetRegisters_cfg (s : State) : (s.resetRegisters).cfg = s.cfg := rfl
@[simp] theorem State.resetRegisters_port (s : State) : (s.resetRegisters).port = s.port := rfl
@[simp] theorem State.resetRegisters_answer (s : State) : (s.resetRegisters).answer = s.answer := rfl

/-! ### `hardReset` -/

@[simp] theorem State.hardReset_ctrl (s : State) : (s.hardReset).regs.ctrl = Registers.reset.ctrl := rfl
@[simp] theorem State.hardReset_status (s : State) : (s.hardReset).regs.status = Registers.reset.status := rfl
@[simp] theorem State.hardReset_err (s : State) : (s.hardReset).regs.err = Registers.reset.err := rfl
@[simp] theorem State.hardReset_evt (s : State) : (s.hardReset).regs.evt = Registers.reset.evt := rfl
@[simp] theorem State.hardReset_txid (s : State) : (s.hardReset).regs.txid = Registers.reset.txid := rfl
@[simp] theorem State.hardReset_txstatus (s : State) : (s.hardReset).regs.txstatus = Registers.reset.txstatus := rfl
@[simp] theorem State.hardReset_rtype (s : State) : (s.hardReset).regs.rtype = Registers.reset.rtype := rfl
@[simp] theorem State.hardReset_rid (s : State) : (s.hardReset).regs.rid = Registers.reset.rid := rfl
@[simp] theorem State.hardReset_rstatus (s : State) : (s.hardReset).regs.rstatus = Registers.reset.rstatus := rfl
@[simp] theorem State.hardReset_crccalc (s : State) : (s.hardReset).regs.crccalc = Registers.reset.crccalc := rfl
@[simp] theorem State.hardReset_flen (s : State) : (s.hardReset).regs.flen = Registers.reset.flen := rfl
@[simp] theorem State.hardReset_plen (s : State) : (s.hardReset).regs.plen = Registers.reset.plen := rfl
@[simp] theorem State.hardReset_fb (s : State) : (s.hardReset).fb = [] := rfl
@[simp] theorem State.hardReset_pb (s : State) : (s.hardReset).pb = [] := rfl
@[simp] theorem State.hardReset_epoch (s : State) : (s.hardReset).epoch = s.epoch + 1 := rfl
@[simp] theorem State.hardReset_cfg (s : State) : (s.hardReset).cfg = s.cfg := rfl
@[simp] theorem State.hardReset_port (s : State) : (s.hardReset).port = s.port := rfl
@[simp] theorem State.hardReset_answer (s : State) : (s.hardReset).answer = Answer.silent := rfl

/-! ### `buildFrame` -/

@[simp] theorem State.buildFrame_ctrl (s : State) (covered : List Byte) : (s.buildFrame covered).regs.ctrl = s.regs.ctrl := rfl
@[simp] theorem State.buildFrame_status (s : State) (covered : List Byte) : (s.buildFrame covered).regs.status = s.regs.status := rfl
@[simp] theorem State.buildFrame_err (s : State) (covered : List Byte) : (s.buildFrame covered).regs.err = 0#8 := rfl
@[simp] theorem State.buildFrame_evt (s : State) (covered : List Byte) : (s.buildFrame covered).regs.evt = s.regs.evt := rfl
@[simp] theorem State.buildFrame_txid (s : State) (covered : List Byte) : (s.buildFrame covered).regs.txid = s.regs.txid := rfl
@[simp] theorem State.buildFrame_txstatus (s : State) (covered : List Byte) : (s.buildFrame covered).regs.txstatus = s.regs.txstatus := rfl
@[simp] theorem State.buildFrame_rtype (s : State) (covered : List Byte) : (s.buildFrame covered).regs.rtype = s.regs.rtype := rfl
@[simp] theorem State.buildFrame_rid (s : State) (covered : List Byte) : (s.buildFrame covered).regs.rid = s.regs.rid := rfl
@[simp] theorem State.buildFrame_rstatus (s : State) (covered : List Byte) : (s.buildFrame covered).regs.rstatus = s.regs.rstatus := rfl
@[simp] theorem State.buildFrame_crccalc (s : State) (covered : List Byte) : (s.buildFrame covered).regs.crccalc = crc32 s.cfg.crc covered := rfl
@[simp] theorem State.buildFrame_flen (s : State) (covered : List Byte) : (s.buildFrame covered).regs.flen = BitVec.ofNat 17 (covered.length + trlLen) := rfl
@[simp] theorem State.buildFrame_plen (s : State) (covered : List Byte) : (s.buildFrame covered).regs.plen = s.regs.plen := rfl
@[simp] theorem State.buildFrame_fb (s : State) (covered : List Byte) : (s.buildFrame covered).fb = s.fb.write 0 (withTrailer s.cfg.crc covered) := rfl
@[simp] theorem State.buildFrame_pb (s : State) (covered : List Byte) : (s.buildFrame covered).pb = s.pb := rfl
@[simp] theorem State.buildFrame_epoch (s : State) (covered : List Byte) : (s.buildFrame covered).epoch = s.epoch := rfl
@[simp] theorem State.buildFrame_cfg (s : State) (covered : List Byte) : (s.buildFrame covered).cfg = s.cfg := rfl
@[simp] theorem State.buildFrame_port (s : State) (covered : List Byte) : (s.buildFrame covered).port = s.port := rfl
@[simp] theorem State.buildFrame_answer (s : State) (covered : List Byte) : (s.buildFrame covered).answer = s.answer := rfl

/-! ### `deliverPayload` -/

@[simp] theorem State.deliverPayload_ctrl (s : State) (payload : List Byte) : (s.deliverPayload payload).regs.ctrl = s.regs.ctrl := rfl
@[simp] theorem State.deliverPayload_status (s : State) (payload : List Byte) : (s.deliverPayload payload).regs.status = s.regs.status := rfl
@[simp] theorem State.deliverPayload_err (s : State) (payload : List Byte) : (s.deliverPayload payload).regs.err = s.regs.err := rfl
@[simp] theorem State.deliverPayload_evt (s : State) (payload : List Byte) : (s.deliverPayload payload).regs.evt = s.regs.evt := rfl
@[simp] theorem State.deliverPayload_txid (s : State) (payload : List Byte) : (s.deliverPayload payload).regs.txid = s.regs.txid := rfl
@[simp] theorem State.deliverPayload_txstatus (s : State) (payload : List Byte) : (s.deliverPayload payload).regs.txstatus = s.regs.txstatus := rfl
@[simp] theorem State.deliverPayload_rtype (s : State) (payload : List Byte) : (s.deliverPayload payload).regs.rtype = s.regs.rtype := rfl
@[simp] theorem State.deliverPayload_rid (s : State) (payload : List Byte) : (s.deliverPayload payload).regs.rid = s.regs.rid := rfl
@[simp] theorem State.deliverPayload_rstatus (s : State) (payload : List Byte) : (s.deliverPayload payload).regs.rstatus = s.regs.rstatus := rfl
@[simp] theorem State.deliverPayload_crccalc (s : State) (payload : List Byte) : (s.deliverPayload payload).regs.crccalc = s.regs.crccalc := rfl
@[simp] theorem State.deliverPayload_flen (s : State) (payload : List Byte) : (s.deliverPayload payload).regs.flen = s.regs.flen := rfl
@[simp] theorem State.deliverPayload_plen (s : State) (payload : List Byte) : (s.deliverPayload payload).regs.plen = BitVec.ofNat 17 payload.length := rfl
@[simp] theorem State.deliverPayload_fb (s : State) (payload : List Byte) : (s.deliverPayload payload).fb = s.fb := rfl
@[simp] theorem State.deliverPayload_pb (s : State) (payload : List Byte) : (s.deliverPayload payload).pb = s.pb.write 0 payload := rfl
@[simp] theorem State.deliverPayload_epoch (s : State) (payload : List Byte) : (s.deliverPayload payload).epoch = s.epoch := rfl
@[simp] theorem State.deliverPayload_cfg (s : State) (payload : List Byte) : (s.deliverPayload payload).cfg = s.cfg := rfl
@[simp] theorem State.deliverPayload_port (s : State) (payload : List Byte) : (s.deliverPayload payload).port = s.port := rfl
@[simp] theorem State.deliverPayload_answer (s : State) (payload : List Byte) : (s.deliverPayload payload).answer = s.answer := rfl

end Sys2Proof.Machine
end

