-- ==== Sys2Proof/Laws/Ops.lean ====
section
/-! SUPPORT. What each shared operation can do, said once: the four tests of CHECK, the decoding of the frame in FB, the address map and the serving of the port. -/

namespace Sys2Proof.Machine

/-- The five answers of CHECK's tests, each with the conditions under which it is given and what it leaves behind. -/
theorem State.validate_cases (s : State) :
    (s.regs.flen.toNat < 9 ∧ s.validate = (.tooShort, s)) ∨
    (9 ≤ s.regs.flen.toNat ∧ 2 < (s.fbByte 0).toNat ∧ s.validate = (.badType, s)) ∨
    (9 ≤ s.regs.flen.toNat ∧ (s.fbByte 0).toNat ≤ 2 ∧ s.frameLength.toNat + 9 ≠ s.regs.flen.toNat ∧
      s.validate = (.lengthMismatch, s)) ∨
    (9 ≤ s.regs.flen.toNat ∧ (s.fbByte 0).toNat ≤ 2 ∧ s.frameLength.toNat + 9 = s.regs.flen.toNat ∧
      crc32 s.cfg.crc (s.fbBytes 0 (s.regs.flen.toNat - 4)) ≠ s.frameTrailer s.regs.flen.toNat ∧
      s.validate = (.checksumMismatch,
        { s with regs.crccalc := crc32 s.cfg.crc (s.fbBytes 0 (s.regs.flen.toNat - 4)) })) ∨
    (9 ≤ s.regs.flen.toNat ∧ (s.fbByte 0).toNat ≤ 2 ∧ s.frameLength.toNat + 9 = s.regs.flen.toNat ∧
      crc32 s.cfg.crc (s.fbBytes 0 (s.regs.flen.toNat - 4)) = s.frameTrailer s.regs.flen.toNat ∧
      s.validate = (.ok,
        { s with regs.crccalc := crc32 s.cfg.crc (s.fbBytes 0 (s.regs.flen.toNat - 4)) })) := by
  unfold State.validate
  by_cases h1 : s.regs.flen.toNat < 9
  · exact .inl ⟨h1, by simp [h1]⟩
  by_cases h2 : 2 < (s.fbByte 0).toNat
  · exact .inr (.inl ⟨not_lt.mp h1, h2, by simp [h1, h2]⟩)
  by_cases h3 : s.frameLength.toNat + 9 = s.regs.flen.toNat
  · by_cases h4 : crc32 s.cfg.crc (s.fbBytes 0 (s.regs.flen.toNat - 4)) = s.frameTrailer s.regs.flen.toNat
    · exact .inr (.inr (.inr (.inr ⟨not_lt.mp h1, not_lt.mp h2, h3, h4, by simp [h1, h2, h3, h4]⟩)))
    · exact .inr (.inr (.inr (.inl ⟨not_lt.mp h1, not_lt.mp h2, h3, h4, by simp [h1, h2, h3, h4]⟩)))
  · exact .inr (.inr (.inl ⟨not_lt.mp h1, not_lt.mp h2, h3, by simp [h1, h2, h3]⟩))

/-- CHECK's tests leave the state as it is, but for CRCCALC when the checksum stage was reached. -/
theorem State.validate_snd (s : State) :
    s.validate.2 = s ∨
      s.validate.2 = { s with regs.crccalc := crc32 s.cfg.crc (s.fbBytes 0 (s.regs.flen.toNat - 4)) } := by
  rcases s.validate_cases with ⟨_, h⟩ | ⟨_, _, h⟩ | ⟨_, _, _, h⟩ | ⟨_, _, _, _, h⟩ | ⟨_, _, _, _, h⟩ <;> rw [h] <;> simp

/-- CHECK's answer with the state its tests leave. -/
theorem execCheck_eq (s : State) : execCheck s = .next (s.validate.2.fail s.validate.1) := rfl

/-- A dispatch failure clears EVT, sets HALT when FATALEN is 1, and answers its code (44_classify.md R165). -/
theorem State.dispatchFail_eq (s : State) (e : ErrCode) :
    s.dispatchFail e = { s with
      regs.evt := 0#4, regs.err := e.code, regs.status := if s.fatalen then 1#1 else s.regs.status } := by
  unfold State.dispatchFail
  split <;> simp [*, State.rejectFrame, State.fail, evtNone]

/-! ### What building a frame and delivering a payload store -/

/-- Every byte of FB after a frame is built: the frame's own bytes below its length, the old byte elsewhere. -/
theorem State.buildFrame_fbByte (s : State) (covered : List Byte) (x : Nat) :
    (s.buildFrame covered).fbByte x =
      if h : x < (withTrailer s.cfg.crc covered).length then (withTrailer s.cfg.crc covered)[x] else s.fbByte x := by
  rw [State.fbByte_of_write (s := s) (t := s.buildFrame covered) (a := 0) (bytes := withTrailer s.cfg.crc covered) rfl rfl]
  by_cases h : x < (withTrailer s.cfg.crc covered).length
  · rw [dif_pos ⟨by omega, by omega⟩, dif_pos h]
    rfl
  · rw [dif_neg (by omega), dif_neg h]

/-- A built frame's covered bytes. -/
theorem State.buildFrame_covered (s : State) (covered : List Byte) (x : Nat) (h : x < covered.length) :
    (s.buildFrame covered).fbByte x = covered[x] := by
  rw [State.buildFrame_fbByte, dif_pos (by rw [withTrailer_length]; omega)]
  simp [withTrailer, h]

/-- A built frame's trailer, byte by byte: the CRC of the covered bytes, least significant byte first. -/
theorem State.buildFrame_trailer (s : State) (covered : List Byte) (k : Nat) (hk : k < 4) :
    (s.buildFrame covered).fbByte (covered.length + k) = (crc32 s.cfg.crc covered).extractLsb' (8 * k) 8 := by
  rw [State.buildFrame_fbByte, dif_pos (by rw [withTrailer_length]; omega)]
  simp only [withTrailer]
  rw [List.getElem_append_right (by omega)]
  simp only [Nat.add_sub_cancel_left, bytesLe32]
  interval_cases k <;> rfl

/-- A built frame's covered bytes, read back as a list. -/
theorem State.buildFrame_fbBytes (s : State) (covered : List Byte) :
    (s.buildFrame covered).fbBytes 0 covered.length = covered := by
  apply List.ext_getElem
  · simp
  · intro i h1 h2
    rw [State.getElem_fbBytes, State.buildFrame_covered s covered _ (by omega)]
    simp

/-- A built frame's trailer as the decoders read it. -/
theorem State.buildFrame_frameTrailer (s : State) (covered : List Byte) :
    (s.buildFrame covered).frameTrailer (covered.length + 4) = crc32 s.cfg.crc covered := by
  rw [State.frameTrailer, show covered.length + 4 - 4 = covered.length + 0 by omega,
    show covered.length + 4 - 3 = covered.length + 1 by omega, show covered.length + 4 - 2 = covered.length + 2 by omega,
    show covered.length + 4 - 1 = covered.length + 3 by omega, State.buildFrame_trailer _ _ 0 (by omega),
    State.buildFrame_trailer _ _ 1 (by omega), State.buildFrame_trailer _ _ 2 (by omega),
    State.buildFrame_trailer _ _ 3 (by omega)]
  exact le32_extract _

/-- Every byte of PB after a payload is delivered. -/
theorem State.deliverPayload_pbByte (s : State) (payload : List Byte) (x : Nat) :
    (s.deliverPayload payload).pbByte x = if h : x < payload.length then payload[x] else s.pbByte x := by
  rw [State.pbByte_of_write (s := s) (t := s.deliverPayload payload) (a := 0) (bytes := payload) rfl rfl]
  by_cases h : x < payload.length
  · rw [dif_pos ⟨by omega, by omega⟩, dif_pos h]
    rfl
  · rw [dif_neg (by omega), dif_neg h]

/-- The header a NACK is built with: the low byte of the status in the length field, at the offset the parameter gives (30_encoding.md R94). -/
theorem nackHeader_eq (offset : NackStatusOffset) (id : Half) (status : Word) :
    nackHeader offset id status =
      match offset with
      | .four  => frameCovered 0x02#8 id (be16 0x00#8 (status.extractLsb' 0 8)) []
      | .three => frameCovered 0x02#8 id (be16 (status.extractLsb' 0 8) 0x00#8) [] := by
  have h1 : ∀ a b : Byte, (be16 a b).extractLsb' 8 8 = a := fun a b => by
    apply BitVec.eq_of_toNat_eq
    rw [BitVec.extractLsb'_toNat, Nat.shiftRight_eq_div_pow, be16_toNat]
    have := a.isLt
    have := b.isLt
    omega
  have h2 : ∀ a b : Byte, (be16 a b).extractLsb' 0 8 = b := fun a b => by
    apply BitVec.eq_of_toNat_eq
    rw [BitVec.extractLsb'_toNat, Nat.shiftRight_eq_div_pow, be16_toNat]
    have := b.isLt
    omega
  cases offset <;> simp [nackHeader, NackStatusOffset.toNat, frameCovered, bytesBe16, h1, h2]

/-! ### What CLASSIFY reads and does -/

/-- A range of FB, its first byte apart. -/
theorem State.fbBytes_succ (s : State) (a n : Nat) : s.fbBytes a (n + 1) = s.fbByte a :: s.fbBytes (a + 1) n := by
  simp only [State.fbBytes, List.range_succ_eq_map, List.map_cons, List.map_map, Nat.add_zero]
  congr 1
  apply List.map_congr_left
  intro i _
  simp only [Function.comp_apply]
  congr 1
  omega

/-- The first bytes of a range of FB. -/
theorem State.take_fbBytes (s : State) (a n k : Nat) (h : k ≤ n) : (s.fbBytes a n).take k = s.fbBytes a k := by
  simp [State.fbBytes, ← List.map_take, List.take_range, Nat.min_eq_left h]

/-- What the dispatch stage reads from a frame of at least one byte: the kind's tests of FLEN and the fields at their offsets (44_classify.md R163). -/
theorem State.decodeFrame_frameBytes (s : State) (h : 1 ≤ s.regs.flen.toNat) :
    decodeFrame s.frameBytes =
      if (s.fbByte 0).toNat = 0 then
        if 5 + s.frameLength.toNat ≤ s.regs.flen.toNat then .ok (.data s.frameId (s.fbBytes 5 s.frameLength.toNat))
        else .error .truncated
      else if (s.fbByte 0).toNat = 1 then
        if 3 ≤ s.regs.flen.toNat then .ok (.ack s.frameId) else .error .truncated
      else if (s.fbByte 0).toNat = 2 then
        if 5 ≤ s.regs.flen.toNat then .ok (.nack s.frameId s.frameLength) else .error .truncated
      else .error .unknownType := by
  have hl : s.frameLength.toNat < 65536 := s.frameLength.isLt
  obtain ⟨n, hn, hle, hlt⟩ : ∃ n, min s.regs.flen.toNat fbCap = n + 1 ∧ n + 1 ≤ s.regs.flen.toNat ∧
      (n + 1 < fbCap → n + 1 = s.regs.flen.toNat) := by
    refine ⟨min s.regs.flen.toNat fbCap - 1, ?_, ?_, ?_⟩ <;> simp only [fbCap] <;> omega
  rw [State.frameBytes, hn, State.fbBytes_succ, decodeFrame]
  simp only [Nat.zero_add]
  by_cases h0 : (s.fbByte 0).toNat = 0
  · rw [if_pos h0, h0]
    simp only []
    match n, hle, hlt with
    | 0, hle, hlt | 1, hle, hlt | 2, hle, hlt | 3, hle, hlt =>
      have := hlt (by decide)
      rw [if_neg (by omega)]
      rfl
    | k + 4, hle, hlt =>
      simp only [State.fbBytes_succ, Nat.reduceAdd, decodeDataFields, State.length_fbBytes]
      change (if s.frameLength.toNat ≤ k then _ else _) = _
      by_cases hk : s.frameLength.toNat ≤ k
      · rw [if_pos hk, if_pos (by omega)]
        change Except.ok (Frame.data s.frameId ((s.fbBytes 5 k).take s.frameLength.toNat)) = _
        rw [State.take_fbBytes _ _ _ _ hk]
      · have := hlt (by simp only [fbCap]; omega)
        rw [if_neg hk, if_neg (by omega)]
  · rw [if_neg h0]
    by_cases h1 : (s.fbByte 0).toNat = 1
    · rw [if_pos h1, h1]
      simp only []
      match n, hle, hlt with
      | 0, hle, hlt | 1, hle, hlt =>
        have := hlt (by decide)
        rw [if_neg (by omega)]
        rfl
      | k + 2, hle, hlt =>
        rw [if_pos (by omega)]
        simp only [State.fbBytes_succ, Nat.reduceAdd, decodeAckFields]
        rfl
    · rw [if_neg h1]
      by_cases h2 : (s.fbByte 0).toNat = 2
      · rw [if_pos h2, h2]
        simp only []
        match n, hle, hlt with
        | 0, hle, hlt | 1, hle, hlt | 2, hle, hlt | 3, hle, hlt =>
          have := hlt (by decide)
          rw [if_neg (by omega)]
          rfl
        | k + 4, hle, hlt =>
          rw [if_pos (by omega)]
          simp only [State.fbBytes_succ, Nat.reduceAdd, decodeNackFields]
          rfl
      · rw [if_neg h2]
        split <;> first | rfl | contradiction

/-- The dispatch stage, said once: truncated without a type byte, otherwise RTYPE takes the type byte and the decoded frame's kind runs. -/
theorem dispatch_cases (s : State) :
    (s.regs.flen.toNat < 1 ∧ dispatch s = .next (s.dispatchFail .truncated)) ∨
    (1 ≤ s.regs.flen.toNat ∧
      dispatch s = runFrame { s with regs.rtype := s.fbByte 0 } (decodeFrame s.frameBytes)) := by
  by_cases h : s.regs.flen.toNat < 1
  · exact .inl ⟨h, by rw [dispatch, if_pos h]⟩
  · exact .inr ⟨not_lt.mp h, by rw [dispatch, if_neg h]⟩

/-- The six outcomes of the dispatch stage, each with the conditions under which it happens (44_classify.md R162, R163, R165). -/
theorem dispatch_outcomes (s : State) :
    (s.regs.flen.toNat < 1 ∧ dispatch s = .next (s.dispatchFail .truncated)) ∨
    (1 ≤ s.regs.flen.toNat ∧ (s.fbByte 0).toNat = 0 ∧ 5 + s.frameLength.toNat ≤ s.regs.flen.toNat ∧
      dispatch s = .next (State.done
        { ({ s with regs.rtype := s.fbByte 0 } : State).deliverPayload (s.fbBytes 5 s.frameLength.toNat) with
          regs.rid := s.frameId, regs.evt := evtData })) ∨
    (1 ≤ s.regs.flen.toNat ∧ (s.fbByte 0).toNat = 1 ∧ 3 ≤ s.regs.flen.toNat ∧
      dispatch s = .next (State.done
        { s with regs.rtype := s.fbByte 0, regs.rid := s.frameId, regs.evt := evtAck })) ∨
    (1 ≤ s.regs.flen.toNat ∧ (s.fbByte 0).toNat = 2 ∧ 5 ≤ s.regs.flen.toNat ∧
      dispatch s = .next (State.done
        { s with regs.rtype := s.fbByte 0, regs.rid := s.frameId, regs.rstatus := s.frameLength, regs.evt := evtNack })) ∨
    (1 ≤ s.regs.flen.toNat ∧ 2 < (s.fbByte 0).toNat ∧
      dispatch s = .next (State.dispatchFail .unknownType { s with regs.rtype := s.fbByte 0 })) ∨
    (1 ≤ s.regs.flen.toNat ∧
      ((s.fbByte 0).toNat = 0 ∧ s.regs.flen.toNat < 5 + s.frameLength.toNat ∨
        (s.fbByte 0).toNat = 1 ∧ s.regs.flen.toNat < 3 ∨ (s.fbByte 0).toNat = 2 ∧ s.regs.flen.toNat < 5) ∧
      dispatch s = .next (State.dispatchFail .truncated { s with regs.rtype := s.fbByte 0 })) := by
  rcases dispatch_cases s with ⟨h, hd⟩ | ⟨h, hd⟩
  · exact .inl ⟨h, hd⟩
  right
  rw [hd, State.decodeFrame_frameBytes s h]
  by_cases h0 : (s.fbByte 0).toNat = 0
  · rw [if_pos h0]
    by_cases hl : 5 + s.frameLength.toNat ≤ s.regs.flen.toNat
    · rw [if_pos hl]
      have := s.frameLength.isLt
      refine .inl ⟨h, h0, hl, ?_⟩
      rw [runFrame, execData, if_neg (by rw [State.length_fbBytes]; simp only [maxPayload]; omega)]
    · rw [if_neg hl]
      exact .inr (.inr (.inr (.inr ⟨h, .inl ⟨h0, by omega⟩, rfl⟩)))
  rw [if_neg h0]
  by_cases h1 : (s.fbByte 0).toNat = 1
  · rw [if_pos h1]
    by_cases hl : 3 ≤ s.regs.flen.toNat
    · rw [if_pos hl]
      exact .inr (.inl ⟨h, h1, hl, rfl⟩)
    · rw [if_neg hl]
      exact .inr (.inr (.inr (.inr ⟨h, .inr (.inl ⟨h1, by omega⟩), rfl⟩)))
  rw [if_neg h1]
  by_cases h2 : (s.fbByte 0).toNat = 2
  · rw [if_pos h2]
    by_cases hl : 5 ≤ s.regs.flen.toNat
    · rw [if_pos hl]
      exact .inr (.inr (.inl ⟨h, h2, hl, rfl⟩))
    · rw [if_neg hl]
      exact .inr (.inr (.inr (.inr ⟨h, .inr (.inr ⟨h2, by omega⟩), rfl⟩)))
  · rw [if_neg h2]
    exact .inr (.inr (.inr (.inl ⟨h, by omega, rfl⟩)))

/-- The four ways through CLASSIFY: halted, rejected by the validation stage, dispatched after it, dispatched without it (44_classify.md R160, R161). -/
theorem execClassify_cases (s : State) :
    (s.halt = true ∧ execClassify s = .next (s.rejectFrame .halted)) ∨
    (s.halt = false ∧ s.chken = true ∧ s.validate.1 ≠ .ok ∧
      execClassify s = .next (s.validate.2.rejectFrame s.validate.1)) ∨
    (s.halt = false ∧ s.chken = true ∧ s.validate.1 = .ok ∧ execClassify s = dispatch s.validate.2) ∨
    (s.halt = false ∧ s.chken = false ∧ execClassify s = dispatch s) := by
  unfold execClassify
  cases hh : s.halt
  · cases hc : s.chken
    · simp
    · rcases hv : s.validate with ⟨e, s'⟩
      cases e <;> simp
  · simp

/-! ### The host port -/

/-- An aligned 32-bit access at a register's offset reaches that register. -/
theorem access_reg (r : Reg) : access 32 (BitVec.ofNat 32 (regOffset r)) = .reg r := by
  cases r <;> rfl

/-- An 8-bit access at FB's byte `i` reaches it. -/
theorem access_fb (i : Nat) (h : i < fbCap) : access 8 (BitVec.ofNat 32 (bufOffset .fb i)) = .byte .fb i := by
  have e : (BitVec.ofNat 32 (bufOffset .fb i)).toNat = 0x10000 + i := by
    simp only [bufOffset, BitVec.toNat_ofNat, fbCap] at *
    omega
  have h' : i < 65544 := h
  rw [access, e, if_neg (by simp only [windowSize]; omega), target, if_neg (by omega), if_pos (by simp only [fbCap]; omega)]
  simp

/-- An 8-bit access at PB's byte `i` reaches it. -/
theorem access_pb (i : Nat) (h : i < pbCap) : access 8 (BitVec.ofNat 32 (bufOffset .pb i)) = .byte .pb i := by
  have e : (BitVec.ofNat 32 (bufOffset .pb i)).toNat = 0x30000 + i := by
    simp only [bufOffset, BitVec.toNat_ofNat, pbCap] at *
    omega
  have h' : i < 65535 := h
  rw [access, e, if_neg (by simp only [windowSize]; omega), target, if_neg (by omega),
    if_neg (by simp only [fbCap]; omega), if_pos (by simp only [pbCap]; omega)]
  simp

/-- A buffer index that an access reaches is inside the buffer. -/
theorem access_byte_lt {bits : Nat} {offset : Word} {b : Buf} {i : Nat} (h : access bits offset = .byte b i) :
    (b = .fb ∧ i < fbCap) ∨ (b = .pb ∧ i < pbCap) := by
  unfold access at h
  split at h
  · cases h
  · split at h
    · cases h
    · split at h <;> cases h
    · split at h <;> cases h
    next b' i' ht =>
      split at h
      · cases h
        unfold target at ht
        split at ht
        · split at ht <;> cases ht
        · split at ht
          · cases ht
            exact .inl ⟨rfl, by simp only [fbCap] at *; omega⟩
          · split at ht
            · cases ht
              exact .inr ⟨rfl, by simp only [pbCap] at *; omega⟩
            · cases ht
      · cases h

theorem step_idle {s : State} (h : s.port = []) : step s = .next s := by
  rw [step, stepPort, h]

theorem step_serve {s : State} {e : PortEvent} {rest : List PortEvent} (h : s.port = e :: rest) :
    step s = serve e { s with port := rest } := by
  rw [step, stepPort, h]

theorem step_read {s : State} {bits : Nat} {offset : Word} {rest : List PortEvent} (h : s.port = .read bits offset :: rest) :
    step s = serveRead { s with port := rest } (access bits offset) := by
  rw [step_serve h]
  rfl

theorem step_write {s : State} {bits : Nat} {offset v : Word} {rest : List PortEvent}
    (h : s.port = .write bits offset v :: rest) :
    step s = serveWrite { s with port := rest } v (access bits offset) := by
  rw [step_serve h]
  rfl

theorem step_command {s : State} {v : Word} {rest : List PortEvent} (h : s.port = commandWrite v :: rest) :
    step s = runCommand v { s with port := rest, answer := .silent } := by
  rw [step_serve h]
  rfl

/-- The only offset that names a register. -/
theorem regAt_eq_some {o : Nat} {r : Reg} (h : regAt o = some r) : o = regOffset r := by
  unfold regAt at h
  split at h <;> cases h <;> rfl

/-- The only access that reaches a register. -/
theorem access_eq_reg {bits : Nat} {offset : Word} {r : Reg} (h : access bits offset = .reg r) :
    bits = 32 ∧ offset = BitVec.ofNat 32 (regOffset r) := by
  unfold access at h
  split at h
  · cases h
  split at h
  · cases h
  · rename_i r' ht
    split at h
    · cases h
      refine ⟨by assumption, ?_⟩
      unfold target at ht
      split at ht
      · split at ht
        · cases ht
          rename_i hr
          rw [← regAt_eq_some hr, BitVec.ofNat_toNat, BitVec.setWidth_eq]
        · cases ht
      · split at ht
        · cases ht
        · split at ht <;> cases ht
    · cases h
  · split at h <;> cases h
  · split at h <;> cases h

/-- A write to a register other than CMD touches the five writable registers alone. -/
theorem State.writeReg_frame {s t : State} {r : Reg} {v : Word} (hr : r ≠ .cmd) (h : s.writeReg r v = .next t) :
    t = { s with
      regs.ctrl := t.regs.ctrl, regs.txid := t.regs.txid, regs.txstatus := t.regs.txstatus, regs.flen := t.regs.flen
      regs.plen := t.regs.plen } := by
  cases r <;> simp only [State.writeReg] at h <;> first | contradiction | (cases h; rfl)

/-- Everything a step that answers a next state can have done. -/
theorem step_cases {s t : State} (h : step s = .next t) :
    (s.port = [] ∧ t = s) ∨
    (∃ bits offset rest a, s.port = .read bits offset :: rest ∧ t = { s with port := rest, answer := a }) ∨
    (∃ v rest, s.port = commandWrite v :: rest ∧ runCommand v { s with port := rest, answer := .silent } = .next t) ∨
    (∃ r v rest, r ≠ .cmd ∧ s.port = .write 32 (BitVec.ofNat 32 (regOffset r)) v :: rest ∧
      State.writeReg { s with port := rest, answer := .silent } r v = .next t) ∨
    (∃ b i bits offset v rest, s.port = .write bits offset v :: rest ∧ access bits offset = .byte b i ∧
      t = State.writeBuf { s with port := rest, answer := .silent } b i (v.setWidth 8)) ∨
    (∃ rest, s.port = .hardReset :: rest ∧ t = State.hardReset { s with port := rest }) := by
  rcases hp : s.port with _ | ⟨e, rest⟩
  · rw [step_idle hp] at h
    cases h
    exact .inl ⟨rfl, rfl⟩
  rw [step_serve hp] at h
  cases e with
  | read bits offset =>
    refine .inr (.inl ⟨bits, offset, rest, ?_⟩)
    unfold serve at h
    simp only at h
    cases ha : access bits offset <;> rw [ha] at h <;> cases h <;> exact ⟨_, rfl, rfl⟩
  | write bits offset v =>
    unfold serve at h
    simp only at h
    cases ha : access bits offset with
    | reg r =>
      rw [ha] at h
      obtain ⟨rfl, rfl⟩ := access_eq_reg ha
      by_cases hr : r = .cmd
      · subst hr
        exact .inr (.inr (.inl ⟨v, rest, rfl, h⟩))
      · exact .inr (.inr (.inr (.inl ⟨r, v, rest, hr, rfl, h⟩)))
    | byte b i =>
      rw [ha] at h
      cases h
      exact .inr (.inr (.inr (.inr (.inl ⟨b, i, bits, offset, v, rest, rfl, ha, rfl⟩))))
    | outside => rw [ha] at h; cases h
    | refuse r => rw [ha] at h; cases h
  | hardReset =>
    cases h
    exact .inr (.inr (.inr (.inr (.inr ⟨rest, rfl, rfl⟩))))

/-- A run of one step more. -/
theorem run_succ {k : Nat} {s t : State} (h : step s = .next t) :
    Sys2Proof.core.run (k + 1) s = Sys2Proof.core.run k t := by
  have e := Host.Core.run.eq_2 Sys2Proof.core s k
  have h' : Sys2Proof.core.step s = Host.Outcome.next (t : Sys2Proof.core.State) := h
  rw [h'] at e
  exact e

end Sys2Proof.Machine
end

