-- ==== Sys2Proof/Laws/PerInstr.lean ====
section
/-! SUPPORT. The statements made for every instruction, one lemma a constructor. -/

namespace Sys2Proof.Laws

/-- The encoder keeps to the encodings' sizes: a command's code is 0x01 to 0x0A with its ignored bits 0 (30_encoding.md R100), a frame has 9 to 65544 bytes (R95). -/
def EncodedSize.Statement (i : Instr) : Prop :=
  ∀ p, i.wellFormed = true →
    match encode p i with
    | .command w   => 1 ≤ w.toNat ∧ w.toNat ≤ 10
    | .frame bytes => minFrame ≤ bytes.length ∧ bytes.length ≤ fbCap

theorem EncodedSize.encData : EncodedSize.Statement .encData := fun _ _ => by simp [encode]
theorem EncodedSize.encAck : EncodedSize.Statement .encAck := fun _ _ => by simp [encode]
theorem EncodedSize.encNack : EncodedSize.Statement .encNack := fun _ _ => by simp [encode]
theorem EncodedSize.decType : EncodedSize.Statement .decType := fun _ _ => by simp [encode]
theorem EncodedSize.decId : EncodedSize.Statement .decId := fun _ _ => by simp [encode]
theorem EncodedSize.decPayload : EncodedSize.Statement .decPayload := fun _ _ => by simp [encode]
theorem EncodedSize.decStatus : EncodedSize.Statement .decStatus := fun _ _ => by simp [encode]
theorem EncodedSize.check : EncodedSize.Statement .check := fun _ _ => by simp [encode]
theorem EncodedSize.classify : EncodedSize.Statement .classify := fun _ _ => by simp [encode]
theorem EncodedSize.srst : EncodedSize.Statement .srst := fun _ _ => by simp [encode]

theorem EncodedSize.data (id : Half) (payload : List Byte) : EncodedSize.Statement (.data id payload) := by
  intro p h
  have h : payload.length ≤ maxPayload := by simpa [Instr.wellFormed] using h
  simp only [encode, withTrailer_length, frameCovered_length, maxPayload, minFrame, fbCap] at h ⊢
  omega

theorem EncodedSize.ack (id : Half) : EncodedSize.Statement (.ack id) := fun p _ => by
  simp [encode, minFrame, fbCap]

theorem EncodedSize.nack (id status : Half) : EncodedSize.Statement (.nack id status) := fun p _ => by
  simp [encode, minFrame, fbCap]

end Sys2Proof.Laws
end

