-- ==== Sys2Proof/Tests/Slice0.lean ====
section
/-! SUPPORT. Tests on words and bytes taken from spec/95_test_vectors.md and 30_encoding.md (the vector is named at each test), and the witnesses of the statements' hypotheses. -/

namespace Sys2Proof.Tests

open Sys2Proof.Machine

-- Checked one after another: checked at once, the tests need more threads than the memory limit admits.
set_option Elab.async false

/-! ### Helpers -/

/-- The reset state with a frame loaded in FB and a value in CTRL. -/
def frameState (ctrl : BitVec 2) (bytes : List Byte) : State :=
  { State.reset with fb := cellsAt 0 bytes, regs.flen := BitVec.ofNat 17 bytes.length, regs.ctrl := ctrl }

/-- The reset state with an id, a status and a payload for the encoders. -/
def operandState (id : Half) (status : Word) (payload : List Byte) : State :=
  { State.reset with
    pb := cellsAt 0 payload, regs.plen := BitVec.ofNat 17 payload.length, regs.txid := id, regs.txstatus := status }

/-- A state with one event on its port. -/
def withEvent (s : State) (e : PortEvent) : State := { s with port := [e] }

/-- The next state of an outcome, the given state where there is none. -/
def nextOr (d : State) : Host.Outcome State Fault Refusal → State
  | .next s => s
  | _       => d

/-- The registers after an instruction, `none` where it stops. -/
def regsAfter (o : Host.Outcome State Fault Refusal) : Option Registers :=
  match o with
  | .next s => some s.regs
  | _       => none

/-- The first bytes of FB after an instruction. -/
def fbAfter (n : Nat) (o : Host.Outcome State Fault Refusal) : Option (List Byte) :=
  match o with
  | .next s => some (s.fbBytes 0 n)
  | _       => none

/-- The first bytes of PB after an instruction. -/
def pbAfter (n : Nat) (o : Host.Outcome State Fault Refusal) : Option (List Byte) :=
  match o with
  | .next s => some (s.pbBytes 0 n)
  | _       => none

/-- The refusal a step ends in, if it does. -/
def refusalOf (o : Host.Outcome State Fault Refusal) : Option Refusal :=
  match o with
  | .refused r => some r
  | _          => none

/-- Whether an outcome is a next state. -/
def completes : Host.Outcome State Fault Refusal → Bool
  | .next _ => true
  | _       => false

theorem next_of {d : State} {o : Host.Outcome State Fault Refusal} (h : completes o = true) : o = .next (nextOr d o) := by
  cases o <;> first | rfl | cases h

/-- The state an instruction ends in, from a state in which it completes. -/
def after (i : Instr) (s : State) : State := nextOr s (exec i s)

/-- The valid frame of V-ENC-1: DATA, id 0, payload "hi". -/
def frameHi : List Byte := [0x00, 0x00, 0x00, 0x00, 0x02, 0x68, 0x69, 0x43, 0x33, 0xA2, 0x07]

/-- A state whose HALT is 1. -/
def haltedState : State := { frameState 2#2 frameHi with regs.status := 1#1 }

/-- A port event that writes a command. -/
def commandState (s : State) (v : Word) : State := withEvent s (commandWrite v)

/-! ### Well-formedness -/

theorem test_illformed_payload : (Instr.data 0#16 (List.replicate 65536 0#8)).wellFormed = false := by
  rw [Instr.wellFormed, List.length_replicate]; rfl

theorem test_wellformed_largest : (Instr.data 0#16 (List.replicate 65535 0#8)).wellFormed = true := by
  rw [Instr.wellFormed, List.length_replicate]; rfl

/-! ### Decoding, on words of 30_encoding.md R100 and frames of 95_test_vectors.md -/

theorem test_decode_encData : (decode (.command 0x00000001#32)).toOption = some .encData := by decide
theorem test_decode_encAck : (decode (.command 0x00000102#32)).toOption = some .encAck := by decide
theorem test_decode_encNack : (decode (.command 0x00000003#32)).toOption = some .encNack := by decide
theorem test_decode_decType : (decode (.command 0x00000004#32)).toOption = some .decType := by decide
theorem test_decode_decId : (decode (.command 0x00000005#32)).toOption = some .decId := by decide
theorem test_decode_decPayload : (decode (.command 0x00000006#32)).toOption = some .decPayload := by decide
theorem test_decode_decStatus : (decode (.command 0x00000007#32)).toOption = some .decStatus := by decide
theorem test_decode_check : (decode (.command 0x00000008#32)).toOption = some .check := by decide
theorem test_decode_classify : (decode (.command 0x00000009#32)).toOption = some .classify := by decide
theorem test_decode_srst : (decode (.command 0x0000000A#32)).toOption = some .srst := by decide
theorem test_decode_reserved_00 : (decode (.command 0x00000000#32)).toOption = none := by decide
theorem test_decode_reserved_0B : (decode (.command 0x0000000B#32)).toOption = none := by decide

/-- V-ENC-1. -/
theorem test_decode_data : (decode (.frame [0x00, 0x00, 0x00, 0x00, 0x02, 0x68, 0x69, 0x43, 0x33, 0xA2, 0x07])).toOption =
    some (.data 0#16 [0x68#8, 0x69#8]) := by decide

/-- V-ENC-13. -/
theorem test_decode_ack : (decode (.frame [0x01, 0xFF, 0xFF, 0x00, 0x00, 0xB1, 0xEC, 0xDF, 0x9B])).toOption =
    some (.ack 0xFFFF#16) := by decide

/-- V-ENC-7. -/
theorem test_decode_nack : (decode (.frame [0x02, 0x00, 0x05, 0x00, 0x34, 0x23, 0x92, 0x9D, 0x9B])).toOption =
    some (.nack 5#16 0x34#16) := by decide

/-- V-CHK-9: type 3 is not NACK. -/
theorem test_decode_type3 : (decode (.frame [0x03, 0x00, 0x00, 0x00, 0x00, 0xAD, 0xDE, 0x42, 0xFB])).toOption = none := by
  decide

/-- V-ENC-5: the encoder's bytes, with the id's byte order visible. -/
theorem test_encode_data :
    encode CrcParams.standard (.data 0x0102#16 [0x31, 0x32, 0x33, 0x34, 0x35, 0x36, 0x37, 0x38, 0x39]) =
      .frame [0x00, 0x01, 0x02, 0x00, 0x09, 0x31, 0x32, 0x33, 0x34, 0x35, 0x36, 0x37, 0x38, 0x39, 0x9F, 0x38, 0xFE, 0x31] := by
  decide +kernel

theorem test_table_word_command : decodeTableWord 32 0x01 = some .encData := by decide
theorem test_table_word_frame : decodeTableWord 8 0x02 = some (.nack 0#16 0#16) := by decide

/-! ### The CRC function (40_crc.md R122, V-CRC-3 and V-CRC-7) -/

theorem test_crc_check_value :
    crc32 CrcParams.standard [0x31, 0x32, 0x33, 0x34, 0x35, 0x36, 0x37, 0x38, 0x39] = 0xCBF43926#32 := by decide +kernel

theorem test_crc_right_form : crc32Right [0x01, 0x00, 0x00, 0x00, 0x00] = 0xFB42DEAD#32 := by decide +kernel

/-! ### Encoders (95_test_vectors.md 2.2) -/

/-- V-ENC-1. -/
theorem test_encData_frame : fbAfter 11 (exec .encData (operandState 0#16 0#32 [0x68, 0x69])) =
    some [0x00, 0x00, 0x00, 0x00, 0x02, 0x68, 0x69, 0x43, 0x33, 0xA2, 0x07] := by decide +kernel

/-- V-ENC-17. -/
theorem test_encData_refuses_65536 :
    regsAfter (exec .encData { State.reset with regs.plen := 65536#17 }) =
      some { Registers.reset with plen := 65536#17, err := 6#8 } := by decide +kernel

/-- V-ENC-6. -/
theorem test_encAck_frame : fbAfter 9 (exec .encAck (operandState 0#16 0#32 [])) =
    some [0x01, 0x00, 0x00, 0x00, 0x00, 0xAD, 0xDE, 0x42, 0xFB] := by decide +kernel

/-- V-ENC-6. -/
theorem test_encAck_registers : regsAfter (exec .encAck (operandState 0#16 0#32 [])) =
    some { Registers.reset with flen := 9#17, crccalc := 0xFB42DEAD#32 } := by decide +kernel

/-- V-ENC-7. -/
theorem test_encNack_defect : fbAfter 9 (exec .encNack (operandState 5#16 0x1234#32 [])) =
    some [0x02, 0x00, 0x05, 0x00, 0x34, 0x23, 0x92, 0x9D, 0x9B] := by decide +kernel

/-- V-ENC-12. -/
theorem test_encNack_offset3 :
    fbAfter 9 (exec .encNack { operandState 5#16 0x1234#32 [] with cfg.nackStatusOffset := .three }) =
      some [0x02, 0x00, 0x05, 0x34, 0x00, 0x61, 0x95, 0x03, 0x01] := by decide +kernel

/-! ### Decoders (95_test_vectors.md 2.3) -/

/-- V-DEC-10. -/
theorem test_decType_raw_byte : regsAfter (exec .decType (frameState 3#2 [0x7F])) =
    some { Registers.reset with flen := 1#17, rtype := 0x7F#8 } := by decide +kernel

/-- V-DEC-4. -/
theorem test_decType_truncated : regsAfter (exec .decType (frameState 3#2 [])) =
    some { Registers.reset with err := 5#8 } := by decide +kernel

/-- V-DEC-6. -/
theorem test_decId_big_endian : regsAfter (exec .decId (frameState 3#2 [0x00, 0x01, 0x02, 0x00])) =
    some { Registers.reset with flen := 4#17, rid := 0x0102#16 } := by decide +kernel

/-- V-DEC-5. -/
theorem test_decId_truncated : regsAfter (exec .decId (frameState 3#2 [0x00, 0x01])) =
    some { Registers.reset with flen := 2#17, err := 5#8 } := by decide +kernel

/-- V-DEC-9. -/
theorem test_decPayload_no_trailer :
    pbAfter 3 (exec .decPayload (frameState 3#2 [0x00, 0x00, 0x01, 0x00, 0x03, 0x07, 0x08, 0x09])) =
      some [0x07, 0x08, 0x09] := by decide +kernel

/-- V-DEC-8. -/
theorem test_decPayload_truncated :
    regsAfter (exec .decPayload (frameState 3#2 [0x00, 0x00, 0x01, 0x00, 0x03, 0x09, 0x09])) =
      some { Registers.reset with flen := 7#17, err := 5#8 } := by decide +kernel

/-- V-DEC-11. -/
theorem test_decStatus_unsigned : regsAfter (exec .decStatus (frameState 3#2 [0xFF, 0xFF, 0xFF, 0xFF, 0xFF])) =
    some { Registers.reset with flen := 5#17, rstatus := 0xFFFF#16 } := by decide +kernel

/-- V-DEC-6. -/
theorem test_decStatus_truncated : regsAfter (exec .decStatus (frameState 3#2 [0x00, 0x01, 0x02, 0x00])) =
    some { Registers.reset with flen := 4#17, err := 5#8 } := by decide +kernel

/-! ### CHECK (95_test_vectors.md 2.4) -/

/-- V-CHK-1. -/
theorem test_check_valid :
    regsAfter (exec .check (frameState 3#2 [0x00, 0x00, 0x00, 0x00, 0x02, 0x68, 0x69, 0x43, 0x33, 0xA2, 0x07])) =
      some { Registers.reset with flen := 11#17, crccalc := 0x07A23343#32 } := by decide +kernel

/-- V-CHK-14: a big-endian trailer is wrong. -/
theorem test_check_trailer_order :
    regsAfter (exec .check (frameState 3#2 [0x01, 0x00, 0x00, 0x00, 0x00, 0xFB, 0x42, 0xDE, 0xAD])) =
      some { Registers.reset with flen := 9#17, err := 4#8, crccalc := 0xFB42DEAD#32 } := by decide +kernel

/-! ### CLASSIFY and the frame kinds (95_test_vectors.md 2.6) -/

/-- V-CLS-9. -/
theorem test_classify_unknown_type_halts :
    regsAfter (exec .classify (frameState 2#2 [0x03, 0x00, 0x00, 0x00, 0x00, 0xAD, 0xDE, 0x42, 0xFB])) =
      some { Registers.reset with flen := 9#17, ctrl := 2#2, err := 7#8, status := 1#1, rtype := 3#8 } := by decide +kernel

/-- V-CLS-6: the NACK of V-ENC-7 does not pass the length test. -/
theorem test_classify_checked_nack :
    regsAfter (exec .classify (frameState 3#2 [0x02, 0x00, 0x05, 0x00, 0x34, 0x23, 0x92, 0x9D, 0x9B])) =
      some { Registers.reset with flen := 9#17, err := 3#8 } := by decide +kernel

/-- V-CLS-1, through CLASSIFY: the DATA frame's payload reaches PB. -/
theorem test_data_payload :
    pbAfter 2 (exec .classify (frameState 3#2 [0x00, 0x00, 0x00, 0x00, 0x02, 0x68, 0x69, 0x43, 0x33, 0xA2, 0x07])) =
      some [0x68, 0x69] := by decide +kernel

/-- V-CLS-20. -/
theorem test_data_registers :
    regsAfter (exec .classify (frameState 2#2 [0x00, 0x00, 0x07, 0x00, 0x01, 0x78])) =
      some { Registers.reset with flen := 6#17, ctrl := 2#2, evt := 0b1100#4, rid := 7#16, plen := 1#17 } := by decide +kernel

/-- V-CLS-25: an ACK's payload is not extracted. -/
theorem test_ack_registers :
    regsAfter (exec .classify (frameState 3#2 [0x01, 0x00, 0x03, 0x00, 0x02, 0x6F, 0x6B, 0xCC, 0xB5, 0x3A, 0x47])) =
      some { Registers.reset with flen := 11#17, evt := 0b0101#4, rtype := 1#8, rid := 3#16, crccalc := 0x473AB5CC#32 } := by
  decide +kernel

/-- V-CLS-18. -/
theorem test_nack_registers :
    regsAfter (exec .classify (frameState 2#2 [0x02, 0x00, 0x07, 0x00, 0x09])) =
      some { Registers.reset with flen := 5#17, ctrl := 2#2, evt := 0b0110#4, rtype := 2#8, rid := 7#16, rstatus := 9#16 } := by
  decide +kernel

/-! ### Control and host access (95_test_vectors.md 2.7) -/

/-- V-CTL-12. -/
theorem test_srst_keeps_bytes : fbAfter 2 (exec .srst (frameState 0#2 [0x00, 0x69])) = some [0x00, 0x69] := by decide +kernel

/-- V-CTL-6. -/
theorem test_srst_registers : regsAfter (exec .srst (frameState 0#2 [0x00, 0x69])) = some Registers.reset := by decide +kernel

/-- V-CTL-3. -/
theorem test_reserved_code : regsAfter (step (withEvent State.reset (Script.wr .cmd 0xFF#32))) =
    some { Registers.reset with err := 9#8 } := by decide +kernel

/-- V-CTL-4. -/
theorem test_command_high_bits_ignored : fbAfter 9 (step (withEvent State.reset (Script.wr .cmd 0x102#32))) =
    some [0x01, 0x00, 0x00, 0x00, 0x00, 0xAD, 0xDE, 0x42, 0xFB] := by decide +kernel

/-- V-CTL-5. -/
theorem test_write_ctrl_reserved_bits : regsAfter (step (withEvent (frameState 0#2 []) (Script.wr .ctrl 0xFFFFFFFF#32))) =
    some Registers.reset := by decide +kernel

/-- V-CTL-9. -/
theorem test_write_flen_truncates : regsAfter (step (withEvent State.reset (Script.wr .flen 0x3FFFF#32))) =
    some { Registers.reset with flen := 0x1FFFF#17 } := by decide +kernel

/-- V-CTL-7. -/
theorem test_write_read_only : regsAfter (step (withEvent State.reset (Script.wr .evt 0xF#32))) =
    some Registers.reset := by decide +kernel

/-- V-CTL-1. -/
theorem test_read_ctrl : (nextOr State.reset (step (withEvent State.reset (Script.rd .ctrl)))).answer = .word 3#32 := by
  decide +kernel

/-- V-CTL-11: the last byte of PB. -/
theorem test_last_pb_byte :
    (nextOr State.reset (step (withEvent { State.reset with pb := [(65534, 0xA5#8)] } (Script.rb .pb 65534)))).answer =
      .byte 0xA5#8 := by decide +kernel

/-- V-CTL-13. -/
theorem test_refused_16_bit_write : refusalOf (step (withEvent State.reset (.write 16 0x04#32 0#32))) = some .wrongWidth := by
  decide +kernel

/-- V-CTL-13. -/
theorem test_refused_misaligned : refusalOf (step (withEvent State.reset (.write 32 0x06#32 0#32))) = some .misaligned := by
  decide +kernel

/-- V-CTL-13. -/
theorem test_refused_word_read_of_buffer : refusalOf (step (withEvent State.reset (.read 32 0x10000#32))) = some .wrongWidth := by
  decide +kernel

/-- V-CTL-13. -/
theorem test_refused_unmapped : [0x34#32, 0x20008#32, 0x3FFFF#32].map (fun o => refusalOf (step (withEvent State.reset (.read 8 o)))) =
    [some .unmappedOffset, some .unmappedOffset, some .unmappedOffset] := by decide +kernel

/-- A table word of a frame kind runs that kind as the first instruction after reset. -/
theorem test_fetch_word_frame : regsAfter (step (State.reset.withFetchWord 8 0x02)) =
    some { Registers.reset with flen := 9#17, ctrl := 2#2, evt := 0b0110#4, rtype := 2#8 } := by decide +kernel

/-- A table word of a command runs it as the first instruction after reset. -/
theorem test_fetch_word_command : regsAfter (step (State.reset.withFetchWord 32 0x04)) =
    some { Registers.reset with err := 5#8 } := by decide +kernel

/-! ### Witnesses: states and operands that meet the hypotheses of the statements, at the ends of their ranges -/

theorem witness_EncDataBuildsFrame : ({ State.reset with regs.plen := 65535#17 } : State).regs.plen.toNat ≤ 65535 ∧
    65535 < ({ State.reset with regs.plen := 65536#17 } : State).regs.plen.toNat := by decide

theorem witness_EncNackBuildsFrame : (operandState 5#16 0x1234#32 []).cfg.nackStatusOffset = .four ∧
    ({ operandState 5#16 0x1234#32 [] with cfg.nackStatusOffset := .three } : State).cfg.nackStatusOffset = .three := by decide

theorem witness_NackStatusLowByteTravels : (0x34#32).toNat % 256 = (operandState 5#16 0x1234#32 []).regs.txstatus.toNat % 256 := by
  decide

theorem witness_EncodersBuildTheEncodedFrame : (operandState 7#16 0#32 []).regs.plen.toNat ≤ 65535 := by decide

theorem witness_DataFrameRoundTrip : ({ State.reset with regs.plen := 65535#17 } : State).regs.plen.toNat ≤ 65535 ∧
    State.reset.regs.plen.toNat ≤ 65535 := by decide

theorem witness_EncodedDataFrameIsClassified : ({ State.reset with regs.plen := 65535#17 } : State).regs.plen.toNat ≤ 65535 ∧
    ({ State.reset with regs.plen := 65535#17 } : State).halt = false := by decide

theorem witness_OnlyEncodersWriteTheFrameBuffer :
    Instr.decPayload ≠ .encData ∧ Instr.decPayload ≠ .encAck ∧ Instr.decPayload ≠ .encNack ∧ Instr.decPayload ≠ .srst ∧
      exec .decPayload (frameState 3#2 frameHi) = .next (after .decPayload (frameState 3#2 frameHi)) :=
  ⟨by decide, by decide, by decide, by decide, next_of (by decide +kernel)⟩

theorem witness_DecTypeReadsTypeByte :
    1 ≤ (frameState 3#2 [0x7F]).regs.flen.toNat ∧ (frameState 3#2 []).regs.flen.toNat < 1 := by decide

theorem witness_DecIdReadsBigEndianId :
    3 ≤ (frameState 3#2 [0x00, 0x01, 0x02]).regs.flen.toNat ∧ (frameState 3#2 [0x00, 0x01]).regs.flen.toNat < 3 := by decide

theorem witness_DecStatusReadsLengthField :
    5 ≤ (frameState 3#2 [0xFF, 0xFF, 0xFF, 0xFF, 0xFF]).regs.flen.toNat ∧
      (frameState 3#2 [0x00, 0x01, 0x02, 0x00]).regs.flen.toNat < 5 := by decide

theorem witness_DecPayloadCopiesDeclaredBytes :
    (let s := frameState 3#2 [0x00, 0x00, 0x01, 0x00, 0x02, 0x09, 0x09]
     2 = (s.fbByte 3).toNat * 256 + (s.fbByte 4).toNat ∧ 5 ≤ s.regs.flen.toNat ∧ 5 + 2 ≤ s.regs.flen.toNat) ∧
    (let s := frameState 3#2 [0x00, 0x00, 0x01, 0x00, 0x00]
     0 = (s.fbByte 3).toNat * 256 + (s.fbByte 4).toNat ∧ 5 ≤ s.regs.flen.toNat ∧ 5 + 0 ≤ s.regs.flen.toNat) := by decide

theorem witness_DecPayloadCopiesDeclaredBytes_truncated :
    (let s := { frameState 3#2 [0x00, 0x00, 0x01, 0x00, 0x00] with regs.flen := 4#17 }
     0 = (s.fbByte 3).toNat * 256 + (s.fbByte 4).toNat ∧ s.regs.flen.toNat < 5) ∧
    (let s := frameState 3#2 [0x00, 0x00, 0x01, 0x00, 0x03, 0x09, 0x09]
     3 = (s.fbByte 3).toNat * 256 + (s.fbByte 4).toNat ∧ s.regs.flen.toNat < 5 + 3) := by decide

/-- Two states that differ in the byte just beyond FLEN. -/
theorem witness_CommandsReadOnlyTheFrame :
    let s := { frameState 3#2 frameHi with fb := cellsAt 0 (frameHi ++ [0x11]) }
    let s' := { frameState 3#2 frameHi with fb := cellsAt 0 (frameHi ++ [0x22]) }
    s'.regs = s.regs ∧ s'.pb = s.pb ∧ SameWorld s s' ∧ (∀ a, a < s.regs.flen.toNat → a < fbCap → s'.fbByte a = s.fbByte a) ∧
      exec .classify s = .next (after .classify s) :=
  ⟨rfl, rfl, ⟨rfl, rfl, rfl, rfl⟩, fun a ha _ => by
    change a < 11 at ha
    interval_cases a <;> rfl, next_of (by decide +kernel)⟩

/-- One state for each verdict of CHECK, each at the end of its range. -/
theorem witness_CheckVerdictInOrder :
    [[0x01, 0x00, 0x00, 0x00, 0x00, 0xAD, 0xDE, 0x42], [0x03, 0x00, 0x00, 0x00, 0x00, 0xAD, 0xDE, 0x42, 0xFB],
      [0x02, 0x00, 0x05, 0x00, 0x01, 0x00, 0x00, 0x00, 0x00], [0x01, 0x00, 0x00, 0x00, 0x00, 0xAD, 0xDE, 0x42, 0xFA],
      [0x01, 0x00, 0x00, 0x00, 0x00, 0xAD, 0xDE, 0x42, 0xFB]].map
        (fun bytes => (after .check (frameState 3#2 bytes)).regs.err) = [1#8, 2#8, 3#8, 4#8, 0#8] := by decide +kernel

theorem witness_CheckRepeatsItsAnswer :
    exec .check (frameState 3#2 frameHi) = .next (after .check (frameState 3#2 frameHi)) := next_of (by decide +kernel)

theorem witness_TamperedByteIsDetected :
    let s := frameState 3#2 frameHi
    s.cfg.crc = CrcParams.standard ∧ s.ValidFrame ∧ (0 < s.regs.flen.toNat ∧ 3#8 ≠ s.fbByte 0 ∧ 2 < (3#8).toNat) ∧
      (0 < s.regs.flen.toNat ∧ 2#8 ≠ s.fbByte 0) ∧ (4 < s.regs.flen.toNat ∧ 3#8 ≠ s.fbByte 4) ∧
      (10 < s.regs.flen.toNat ∧ 0x06#8 ≠ s.fbByte 10) := by
  refine ⟨rfl, ?_, ?_⟩
  · unfold State.ValidFrame
    decide +kernel
  · decide +kernel

/-- One state for each row of CLASSIFY's table, each at the end of its range: the halted row, the four rejected by the validation stage, then CHKEN 0 with no byte, an unknown type and each kind cut one byte short, then the three kinds just whole. -/
theorem witness_ClassifyOutcomes :
    (after .classify haltedState).regs.err = 8#8 ∧
    [[0x01, 0x00, 0x00, 0x00, 0x00, 0xAD, 0xDE, 0x42], [0x03, 0x00, 0x00, 0x00, 0x00, 0xAD, 0xDE, 0x42, 0xFB],
      [0x02, 0x00, 0x05, 0x00, 0x01, 0x00, 0x00, 0x00, 0x00], [0x01, 0x00, 0x00, 0x00, 0x00, 0xAD, 0xDE, 0x42, 0xFA],
      [0x01, 0x00, 0x00, 0x00, 0x00, 0xAD, 0xDE, 0x42, 0xFB]].map
        (fun bytes => (after .classify (frameState 3#2 bytes)).regs.err) = [1#8, 2#8, 3#8, 4#8, 0#8] ∧
    [[], [0x03], [0x00, 0x00, 0x07, 0x00], [0x00, 0x00, 0x07, 0x00, 0x01], [0x01, 0x00], [0x02, 0x00, 0x07, 0x00],
      [0x00, 0x00, 0x07, 0x00, 0x00], [0x01, 0x00, 0x07], [0x02, 0x00, 0x07, 0x00, 0x09]].map
        (fun bytes => (after .classify (frameState 2#2 bytes)).regs.err) =
          [5#8, 7#8, 5#8, 5#8, 5#8, 5#8, 0#8, 0#8, 0#8] := by decide +kernel

theorem witness_ClassifyValidationIsCheck :
    ((frameState 3#2 []).halt = false ∧ (frameState 3#2 []).chken = true ∧ (after .check (frameState 3#2 [])).regs.err ≠ 0#8) ∧
    ((frameState 3#2 frameHi).halt = false ∧ (frameState 3#2 frameHi).chken = true ∧
      (after .check (frameState 3#2 frameHi)).regs.err = 0#8) ∧
    ((frameState 2#2 []).halt = false ∧ (frameState 2#2 []).chken = false) := by decide +kernel

theorem witness_CheckedClassifyNeverHalts : (frameState 3#2 frameHi).chken = true ∧ (frameState 2#2 []).chken = false := by decide

theorem witness_ClassifyRepeatsEvents :
    exec .classify (frameState 3#2 frameHi) = .next (after .classify (frameState 3#2 frameHi)) ∧
      (after .classify (frameState 3#2 frameHi)).evtValid = true := ⟨next_of (by decide +kernel), by decide +kernel⟩

theorem witness_DataKindReportsPayload :
    (List.replicate 65535 0#8).length ≤ 65535 ∧ ([] : List Byte).length ≤ 65535 := by
  rw [List.length_replicate]
  decide

theorem witness_DataTermBeyondFieldIsRefused : 65535 < (List.replicate 65536 0#8).length := by
  rw [List.length_replicate]
  decide

theorem witness_HaltEnteredOnlyByDispatchFailure :
    let s := commandState (frameState 2#2 [0x03]) 0x09#32
    let t := nextOr s (step s)
    step s = .next t ∧ s.halt = false ∧ t.halt = true ∧ s.port = commandWrite 0x09#32 :: [] ∧ (0x09#32).toNat % 256 = 9 ∧
      s.chken = false ∧ s.fatalen = true ∧ t.regs.err ≠ 0#8 :=
  ⟨next_of (by decide +kernel), by decide +kernel, by decide +kernel, rfl, by decide, by decide, by decide, by decide +kernel⟩

theorem witness_HaltLeftOnlyByReset :
    (let s := commandState haltedState 0x0A#32
     step s = .next (nextOr s (step s)) ∧ s.halt = true ∧ (nextOr s (step s)).halt = false) ∧
    (let s := withEvent haltedState .hardReset
     step s = .next (nextOr s (step s)) ∧ s.halt = true ∧ (nextOr s (step s)).halt = false) :=
  ⟨⟨next_of (by decide +kernel), by decide +kernel, by decide +kernel⟩,
    ⟨next_of (by decide +kernel), by decide +kernel, by decide +kernel⟩⟩

theorem witness_EventsComeOnlyFromClassify :
    Instr.check ∈ [Instr.encData, .encAck, .encNack, .decType, .decId, .decPayload, .decStatus, .check] ∧
      exec .check haltedState = .next (after .check haltedState) := ⟨by decide, next_of (by decide +kernel)⟩

theorem witness_OperandRegistersAreHostOnly :
    Instr.classify ≠ .srst ∧ exec .classify (frameState 3#2 frameHi) = .next (after .classify (frameState 3#2 frameHi)) :=
  ⟨by decide, next_of (by decide +kernel)⟩

/-- A failing decoder, a failing CHECK at its last test, and a CLASSIFY failing in validation and at dispatch. -/
theorem witness_ErrorsArePrecise :
    [(Instr.decType, frameState 3#2 []), (.check, frameState 3#2 [0x01, 0x00, 0x00, 0x00, 0x00, 0xAD, 0xDE, 0x42, 0xFA]),
      (.check, frameState 3#2 []), (.classify, frameState 3#2 [0x01, 0x00, 0x00, 0x00, 0x00, 0xAD, 0xDE, 0x42, 0xFA]),
      (.classify, frameState 3#2 []), (.classify, frameState 2#2 [0x03])].map
        (fun x => (completes (exec x.1 x.2), (after x.1 x.2).regs.err)) =
      [(true, 5#8), (true, 4#8), (true, 1#8), (true, 4#8), (true, 1#8), (true, 7#8)] := by decide +kernel

/-- One instruction of each row of the table of result codes completes. -/
theorem witness_ResultCodesByCommand :
    [Instr.encData, .encAck, .encNack, .srst, .decType, .decId, .decPayload, .decStatus, .check].map
        (fun i => completes (exec i (frameState 3#2 frameHi))) = List.replicate 9 true ∧
    (completes (exec .classify (frameState 3#2 frameHi)) = true ∧ (frameState 3#2 frameHi).chken = true) ∧
    (completes (exec .classify (frameState 2#2 [])) = true ∧ (frameState 2#2 []).chken = false) := by decide +kernel

theorem witness_ReservedCodeOnlySetsErr :
    (commandState haltedState 0x100#32).port = commandWrite 0x100#32 :: [] ∧ (0x100#32).toNat % 256 = 0 ∧
      0x0B ≤ (0x0B#32).toNat % 256 ∧ 0x0B ≤ (0xFFFFFFFF#32).toNat % 256 := ⟨rfl, by decide, by decide, by decide⟩

theorem witness_StepRunsDecodedInstruction :
    (let s := commandState (frameState 2#2 [0x01, 0x00, 0x07]) 0x09#32
     s.port = commandWrite 0x09#32 :: [] ∧ decode (.command 0x09#32) = .ok .classify ∧ s.halt = false ∧
       decode (.frame s.frameBytes) = .ok (.ack 7#16) ∧ s.chken = false) ∧
    (let s := commandState (frameState 3#2 frameHi) 0x09#32
     s.port = commandWrite 0x09#32 :: [] ∧ decode (.command 0x09#32) = .ok .classify ∧ s.halt = false ∧
       decode (.frame s.frameBytes) = .ok (.data 0#16 [0x68, 0x69]) ∧ s.chken = true ∧ s.ValidFrame) :=
  ⟨⟨rfl, rfl, rfl, rfl, rfl⟩, rfl, rfl, rfl, rfl, rfl, by unfold State.ValidFrame; decide +kernel⟩

theorem witness_HostAccessRules :
    (withEvent haltedState (Script.rd .evt)).port = Script.rd .evt :: [] ∧
    (65543 < bufCap .fb ∧ (withEvent haltedState (Script.rb .fb 65543)).port = Script.rb .fb 65543 :: []) ∧
    (65534 < bufCap .pb ∧ (withEvent haltedState (Script.rb .pb 65534)).port = Script.rb .pb 65534 :: []) ∧
    (withEvent haltedState (Script.wr .crccalc 1#32)).port = Script.wr .crccalc 1#32 :: [] ∧
    (0xFFFFFFFC#32).toNat % 2 ^ 2 = (0#32).toNat % 2 ^ 2 ∧ (0xFFFFFF09#32).toNat % 2 ^ 8 = (9#32).toNat % 2 ^ 8 ∧
    (let s := withEvent haltedState (Script.wr .txid 0xFFFF#32)
     step s = .next (nextOr s (step s)) ∧ (∀ v rest, s.port ≠ commandWrite v :: rest) ∧ ∀ rest, s.port ≠ .hardReset :: rest) :=
  ⟨rfl, ⟨by decide, rfl⟩, ⟨by decide, rfl⟩, rfl, by decide, by decide, next_of (by decide +kernel),
    fun v rest h => by simp [withEvent, Script.wr, commandWrite, regOffset] at h, fun rest h => by cases h⟩

theorem witness_HostWritesKeepLowBits :
    (Reg.flen, 17) ∈ [(Reg.ctrl, 2), (.txid, 16), (.txstatus, 32), (.flen, 17), (.plen, 17)] ∧
      (withEvent haltedState (Script.wr .flen 0x3FFFF#32)).port = Script.wr .flen 0x3FFFF#32 :: [] := ⟨by decide, rfl⟩

theorem witness_BufferByteReadsBack :
    (65543 < bufCap .fb ∧ (withEvent haltedState (Script.wb .fb 65543 0xA5#8)).port = Script.wb .fb 65543 0xA5#8 :: []) ∧
    (65534 < bufCap .pb ∧ (withEvent haltedState (Script.wb .pb 65534 0xA5#8)).port = Script.wb .pb 65534 0xA5#8 :: []) :=
  ⟨⟨by decide, rfl⟩, ⟨by decide, rfl⟩⟩

/-- Both ends of every refused range, with a width that the range refuses. -/
theorem witness_AccessesOutsideTheMapAreRefused :
    [(8, 0x00), (8, 0x33), (32, 0x01), (32, 0x33), (32, 0x10000), (32, 0x20007), (16, 0x30000), (16, 0x3FFFE), (32, 0x34),
      (8, 0xFFFF), (8, 0x20008), (8, 0x2FFFF), (8, 0x3FFFF)].all (fun x => decide
        (let bits : Nat := x.1
         let o : Nat := x.2
         (o < 0x34 ∧ (bits ≠ 32 ∨ o % 4 ≠ 0)) ∨
           (((0x10000 ≤ o ∧ o ≤ 0x20007) ∨ (0x30000 ≤ o ∧ o ≤ 0x3FFFE)) ∧ bits ≠ 8) ∨
           (0x34 ≤ o ∧ o ≤ 0xFFFF) ∨ (0x20008 ≤ o ∧ o ≤ 0x2FFFF) ∨ o = 0x3FFFF)) = true := by decide +kernel

theorem witness_OutsideWindowFaults :
    262144 ≤ (0x40000#32).toNat ∧ 262144 ≤ (0xFFFFFFFF#32).toNat ∧
      (withEvent State.reset (.read 8 0x40000#32)).port = .read 8 0x40000#32 :: [] ∧
      (withEvent State.reset (.write 32 0x40000#32 0#32)).port = .write 32 0x40000#32 0#32 :: [] :=
  ⟨by decide, by decide, rfl, rfl⟩

theorem witness_AddressMapServes :
    (0x30#32, Reg.plen) ∈ [(0x00#32, Reg.cmd), (0x30#32, Reg.plen)] ∧ 65543 < 65544 ∧ 65534 < 65535 := by decide

/-- The whole of `encode_ack(7)`, a buffer access of each kind and a hardware reset, all served. -/
theorem witness_ServedAccessesNeverStop :
    ∀ e ∈ ({ State.reset with port := Script.encodeAck 7#16 ++ [Script.wb .fb 65543 1#8, Script.rb .pb 65534, .hardReset] } : State).port,
      Served e := by
  intro e he
  simp only [Script.encodeAck, Script.cmd, encode, List.cons_append, List.nil_append, List.mem_cons, List.not_mem_nil,
    or_false] at he
  rcases he with rfl | rfl | rfl | rfl | rfl
  · exact .inr (.inl ⟨.txid, _, rfl⟩)
  · exact .inr (.inl ⟨.cmd, _, rfl⟩)
  · exact .inr (.inr (.inr (.inl ⟨.fb, 65543, _, by decide, rfl⟩)))
  · exact .inr (.inr (.inl ⟨.pb, 65534, by decide, rfl⟩))
  · exact .inr (.inr (.inr (.inr rfl)))

theorem witness_PortServesInArrivalOrder :
    (let s := withEvent State.reset (Script.rd .ctrl)
     step s = .next (nextOr s (step s))) ∧ State.reset.port = [] := ⟨next_of (by decide +kernel), rfl⟩

theorem witness_HardResetRestoresReset : (withEvent haltedState .hardReset).port = .hardReset :: [] := rfl

/-- A state with bytes in FB, HALT 1 and a CLASSIFY waiting meets the invariant and steps. -/
theorem witness_StepKeepsInvariant :
    (commandState haltedState 0x09#32).Inv ∧
      step (commandState haltedState 0x09#32) = .next (nextOr State.reset (step (commandState haltedState 0x09#32))) :=
  ⟨⟨by decide, by decide, by decide, by decide, fun _ => rfl⟩, next_of (by decide +kernel)⟩

theorem witness_ParametersNeverChange :
    (let s := commandState haltedState 0x0A#32
     step s = .next (nextOr s (step s)) ∧ ∀ rest, s.port ≠ .hardReset :: rest) :=
  ⟨next_of (by decide +kernel), fun rest h => by cases h⟩

theorem witness_DecodeEncodeRoundTrip :
    (Instr.data 0xFFFF#16 (List.replicate 65535 0xFF#8)).wellFormed = true ∧ (Instr.nack 5#16 0xFFFF#16).wellFormed = true := by
  refine ⟨?_, rfl⟩
  rw [Instr.wellFormed, List.length_replicate]
  rfl

theorem witness_CommandDecodingIsInvertible : decode (.command 0xFFFFFF0A#32) = .ok .srst := rfl

theorem witness_DecodedInstructionsAreWellFormed : decode (.frame frameHi) = .ok (.data 0#16 [0x68, 0x69]) := rfl

theorem witness_CommandCodesDecode :
    (10, Instr.srst) ∈ [(1, Instr.encData), (10, .srst)] ∧ (0xFFFFFF0A#32).toNat % 256 = 10 ∧
      (0x100#32).toNat % 256 = 0 ∧ 11 ≤ (0x0B#32).toNat % 256 ∧ 11 ≤ (0xFF#32).toNat % 256 := by decide

theorem witness_FrameTypeByteSelectsKind :
    2 < (3#8).toNat ∧ 2 < (255#8).toNat ∧ decode (.frame [0x01, 0x00, 0x07]) = .ok (.ack 7#16) := ⟨by decide, by decide, rfl⟩

end Sys2Proof.Tests
end

/-! The host port and the block's parameters: what an access reads and stores, and what no step changes (10_state.md R20, R44). -/

namespace Sys2Proof.Machine

/-! ### What a command leaves alone outside the registers and buffers -/

theorem SameWorld.trans {s t u : State} (hst : SameWorld s t) (htu : SameWorld t u) : SameWorld s u := by
  obtain ⟨hcfg, hepoch, hport, hanswer⟩ := hst
  obtain ⟨hcfg', hepoch', hport', hanswer'⟩ := htu
  exact ⟨hcfg'.trans hcfg, hepoch'.trans hepoch, hport'.trans hport, hanswer'.trans hanswer⟩

theorem State.fail_sameWorld (s : State) (e : ErrCode) : SameWorld s (s.fail e) := ⟨rfl, rfl, rfl, rfl⟩

theorem State.rejectFrame_sameWorld (s : State) (e : ErrCode) : SameWorld s (s.rejectFrame e) := ⟨rfl, rfl, rfl, rfl⟩

theorem State.dispatchFail_sameWorld (s : State) (e : ErrCode) : SameWorld s (s.dispatchFail e) :=
  ⟨s.dispatchFail_cfg e, s.dispatchFail_epoch e, s.dispatchFail_port e, s.dispatchFail_answer e⟩

theorem State.buildFrame_sameWorld (s : State) (covered : List Byte) : SameWorld s (s.buildFrame covered) :=
  ⟨rfl, rfl, rfl, rfl⟩

theorem State.validate_sameWorld (s : State) : SameWorld s s.validate.2 := by
  rcases s.validate_snd with h | h <;> rw [h] <;> exact ⟨rfl, rfl, rfl, rfl⟩

theorem dispatch_sameWorld {s t : State} (h : dispatch s = .next t) : SameWorld s t := by
  rcases dispatch_outcomes s with ⟨_, hd⟩ | ⟨_, _, _, hd⟩ | ⟨_, _, _, hd⟩ | ⟨_, _, _, hd⟩ | ⟨_, _, hd⟩ | ⟨_, _, hd⟩ <;>
    rw [hd] at h <;> cases h
  · exact s.dispatchFail_sameWorld _
  · exact ⟨rfl, rfl, rfl, rfl⟩
  · exact ⟨rfl, rfl, rfl, rfl⟩
  · exact ⟨rfl, rfl, rfl, rfl⟩
  · exact State.dispatchFail_sameWorld { s with regs.rtype := s.fbByte 0 } _
  · exact State.dispatchFail_sameWorld { s with regs.rtype := s.fbByte 0 } _

theorem execClassify_sameWorld {s t : State} (h : execClassify s = .next t) : SameWorld s t := by
  rcases execClassify_cases s with ⟨_, hc⟩ | ⟨_, _, _, hc⟩ | ⟨_, _, _, hc⟩ | ⟨_, _, hc⟩ <;> rw [hc] at h
  · cases h
    exact s.rejectFrame_sameWorld _
  · cases h
    exact s.validate_sameWorld.trans (State.rejectFrame_sameWorld _ _)
  · exact s.validate_sameWorld.trans (dispatch_sameWorld h)
  · exact dispatch_sameWorld h

/-- No instruction touches the parameters, the free values of unwritten bytes, the events that wait or the answer. -/
theorem exec_sameWorld {i : Instr} {s t : State} (h : exec i s = .next t) : SameWorld s t := by
  cases i with
  | encData =>
    simp only [exec, execEncData] at h
    split at h <;> cases h
    · exact s.fail_sameWorld _
    · exact s.buildFrame_sameWorld _
  | encAck => cases h; exact s.buildFrame_sameWorld _
  | encNack => cases h; exact s.buildFrame_sameWorld _
  | decType =>
    simp only [exec, execDecType] at h
    split at h <;> cases h <;> exact ⟨rfl, rfl, rfl, rfl⟩
  | decId =>
    simp only [exec, execDecId] at h
    split at h <;> cases h <;> exact ⟨rfl, rfl, rfl, rfl⟩
  | decPayload =>
    simp only [exec, execDecPayload] at h
    split at h
    · cases h; exact s.fail_sameWorld _
    · split at h <;> cases h <;> exact ⟨rfl, rfl, rfl, rfl⟩
  | decStatus =>
    simp only [exec, execDecStatus] at h
    split at h <;> cases h <;> exact ⟨rfl, rfl, rfl, rfl⟩
  | check =>
    rw [exec, execCheck_eq] at h
    cases h
    exact s.validate_sameWorld.trans (State.fail_sameWorld _ _)
  | classify => exact execClassify_sameWorld h
  | data id payload =>
    simp only [exec, execData] at h
    split at h <;> cases h
    exact ⟨rfl, rfl, rfl, rfl⟩
  | srst | ack id | nack id status => cases h; exact ⟨rfl, rfl, rfl, rfl⟩

theorem runCommand_sameWorld {v : Word} {s t : State} (h : runCommand v s = .next t) : SameWorld s t := by
  unfold runCommand at h
  split at h
  · exact exec_sameWorld h
  · cases h
    exact s.fail_sameWorld _

theorem State.writeReg_sameWorld {s t : State} {r : Reg} {v : Word} (h : s.writeReg r v = .next t) : SameWorld s t := by
  by_cases hr : r = .cmd
  · subst hr
    exact runCommand_sameWorld h
  · rw [State.writeReg_frame hr h]
    exact ⟨rfl, rfl, rfl, rfl⟩

theorem State.writeBuf_sameWorld (s : State) (b : Buf) (i : Nat) (v : Byte) : SameWorld s (s.writeBuf b i v) := by
  cases b <;> exact ⟨rfl, rfl, rfl, rfl⟩

/-- Settles O46: of everything a step can do, only the hardware reset writes `epoch`, and nothing writes the parameters. -/
theorem parametersNeverChange : Obligations.ParametersNeverChange := by
  intro s t h
  rcases step_cases h with ⟨_, rfl⟩ | ⟨_, _, _, _, _, rfl⟩ | ⟨_, _, _, hrun⟩ | ⟨_, _, _, _, _, hwrite⟩ |
    ⟨b, i, _, _, v, rest, _, _, rfl⟩ | ⟨rest, hp, rfl⟩
  · exact ⟨rfl, fun _ => rfl⟩
  · exact ⟨rfl, fun _ => rfl⟩
  · obtain ⟨hcfg, hepoch, -, -⟩ := runCommand_sameWorld hrun
    exact ⟨hcfg, fun _ => hepoch⟩
  · obtain ⟨hcfg, hepoch, -, -⟩ := State.writeReg_sameWorld hwrite
    exact ⟨hcfg, fun _ => hepoch⟩
  · obtain ⟨hcfg, hepoch, -, -⟩ :=
      State.writeBuf_sameWorld { s with port := rest, answer := .silent } b i (v.setWidth 8)
    exact ⟨hcfg, fun _ => hepoch⟩
  · exact ⟨rfl, fun hno => absurd hp (hno rest)⟩

/-! ### Host reads -/

/-- An 8-bit access at a buffer's byte `i` reaches it. -/
theorem access_byte {b : Buf} {i : Nat} (h : i < bufCap b) : access 8 (BitVec.ofNat 32 (bufOffset b i)) = .byte b i := by
  cases b with
  | fb => exact access_fb i h
  | pb => exact access_pb i h

theorem step_rd {s : State} {rest : List PortEvent} {r : Reg} (h : s.port = Script.rd r :: rest) :
    step s = .next { s with port := rest, answer := .word (s.readReg r) } := by
  rw [step_read h, access_reg]
  rfl

theorem step_rb {s : State} {rest : List PortEvent} {b : Buf} {i : Nat} (hi : i < bufCap b)
    (h : s.port = Script.rb b i :: rest) :
    step s = .next { s with port := rest, answer := .byte (s.readBuf b i) } := by
  rw [step_read h, access_byte hi]
  rfl

/-- The number of a register's live bits; the bits above them are reserved and read 0 (10_state.md R21 to R34). -/
def regLiveBits : Reg → Nat
  | .cmd                          => 0
  | .status                       => 1
  | .ctrl                         => 2
  | .evt                          => 4
  | .err | .rtype                 => 8
  | .txid | .rid | .rstatus       => 16
  | .flen | .plen                 => 17
  | .txstatus | .crccalc          => 32

theorem toNat_setWidth_lt {n : Nat} (v : BitVec n) (m : Nat) : (v.setWidth m).toNat < 2 ^ n := by
  rw [BitVec.toNat_setWidth]
  exact lt_of_le_of_lt (Nat.mod_le _ _) v.isLt

/-- Reserved bits read 0: each register's value fits in its live bits. -/
theorem State.readReg_lt (s : State) (r : Reg) : (s.readReg r).toNat < 2 ^ regLiveBits r := by
  cases r with
  | cmd => exact Nat.one_pos
  | txstatus => exact s.regs.txstatus.isLt
  | crccalc => exact s.regs.crccalc.isLt
  | _ => exact toNat_setWidth_lt _ 32

/-! ### Host writes -/

theorem step_wr {s : State} {rest : List PortEvent} {r : Reg} {v : Word} (h : s.port = Script.wr r v :: rest) :
    step s = State.writeReg { s with port := rest, answer := .silent } r v := by
  rw [step_write h, access_reg, serveWrite]

/-- A write to a read-only register is ignored. -/
theorem State.writeReg_readOnly (s : State) (v : Word) {r : Reg}
    (hr : r ∈ [Reg.status, .err, .evt, .rtype, .rid, .rstatus, .crccalc]) : s.writeReg r v = .next s := by
  simp only [List.mem_cons, List.not_mem_nil, or_false] at hr
  rcases hr with rfl | rfl | rfl | rfl | rfl | rfl | rfl <;> rfl

theorem setWidth_eq_of_mod_eq {n : Nat} {v w : Word} (h : v.toNat % 2 ^ n = w.toNat % 2 ^ n) :
    v.setWidth n = w.setWidth n :=
  BitVec.eq_of_toNat_eq (by rw [BitVec.toNat_setWidth, BitVec.toNat_setWidth, h])

/-- The command a write starts depends on bits [7:0] alone (30_encoding.md R100). -/
theorem runCommand_congr {v w : Word} (h : v.setWidth 8 = w.setWidth 8) (s : State) : runCommand v s = runCommand w s := by
  have hdecode : decodeCommand v = decodeCommand w := by rw [decodeCommand, decodeCommand, h]
  rw [runCommand, runCommand, hdecode]

/-- What a write does depends on the bits that are neither reserved nor ignored. -/
theorem State.writeReg_congr (s : State) {r : Reg} {n : Nat} {v w : Word}
    (hr : (r, n) ∈ [(Reg.cmd, 8), (.ctrl, 2), (.txid, 16), (.flen, 17), (.plen, 17)])
    (h : v.toNat % 2 ^ n = w.toNat % 2 ^ n) : s.writeReg r v = s.writeReg r w := by
  have hlow : v.setWidth n = w.setWidth n := setWidth_eq_of_mod_eq h
  simp only [List.mem_cons, Prod.mk.injEq, List.not_mem_nil, or_false] at hr
  rcases hr with ⟨rfl, rfl⟩ | ⟨rfl, rfl⟩ | ⟨rfl, rfl⟩ | ⟨rfl, rfl⟩ | ⟨rfl, rfl⟩
  · exact runCommand_congr hlow s
  all_goals simp only [State.writeReg, hlow]

theorem State.writeBuf_regs (s : State) (b : Buf) (i : Nat) (v : Byte) : (s.writeBuf b i v).regs = s.regs := by
  cases b <;> rfl

/-- Only a write to CMD or a hardware reset starts anything: any other step leaves the result registers as they are. -/
theorem step_keeps_results {s t : State} (h : step s = .next t) (hcmd : ∀ v rest, s.port ≠ commandWrite v :: rest)
    (hreset : ∀ rest, s.port ≠ .hardReset :: rest) :
    t.regs = { s.regs with
      ctrl := t.regs.ctrl, txid := t.regs.txid, txstatus := t.regs.txstatus, flen := t.regs.flen, plen := t.regs.plen } := by
  rcases step_cases h with ⟨_, rfl⟩ | ⟨_, _, _, _, _, rfl⟩ | ⟨v, rest, hp, _⟩ | ⟨_, _, _, hr, _, hwrite⟩ |
    ⟨_, _, _, _, _, _, _, _, rfl⟩ | ⟨rest, hp, _⟩
  · rfl
  · rfl
  · exact absurd hp (hcmd v rest)
  · exact congrArg State.regs (State.writeReg_frame hr hwrite)
  · rw [State.writeBuf_regs]
  · exact absurd hp (hreset rest)

/-- Settles O34: one law of the port for each clause of 10_state.md R44. -/
theorem hostAccessRules : Obligations.HostAccessRules := by
  refine ⟨fun _ _ _ => step_rd, fun _ _ _ _ => step_rb, ?reserved, ?readOnly, ?ignored, fun _ _ => step_keeps_results⟩
  case reserved =>
    intro s r w hr
    have hw : w = regLiveBits r := by
      simp only [List.mem_cons, Prod.mk.injEq, List.not_mem_nil, or_false] at hr
      rcases hr with ⟨rfl, rfl⟩ | ⟨rfl, rfl⟩ | ⟨rfl, rfl⟩ | ⟨rfl, rfl⟩ | ⟨rfl, rfl⟩ | ⟨rfl, rfl⟩ | ⟨rfl, rfl⟩ |
        ⟨rfl, rfl⟩ | ⟨rfl, rfl⟩ | ⟨rfl, rfl⟩ | ⟨rfl, rfl⟩ <;> rfl
    exact hw ▸ s.readReg_lt r
  case readOnly =>
    intro s rest r v hr hp
    rw [step_wr hp, State.writeReg_readOnly _ v hr]
  case ignored =>
    intro s rest r n v w hr hvw
    rw [step_wr rfl, step_wr rfl]
    exact State.writeReg_congr _ hr hvw

end Sys2Proof.Machine

/-! ### Refused accesses

Each region of the address map refuses for a reason of its own (20_memory.md R66, R71). -/

namespace Sys2Proof.Machine

/-- An offset of REG names the register that starts there; no register starts at an offset that is no multiple of 4. -/
theorem target_of_lt_reg {o : Nat} (h : o < 0x34) :
    (∃ r, target o = some (.reg r) ∧ o % 4 = 0) ∨ target o = some .unalignedReg := by
  unfold target
  rw [if_pos h]
  cases hr : regAt o with
  | none => exact .inr rfl
  | some r =>
    refine .inl ⟨r, rfl, ?_⟩
    rw [regAt_eq_some hr]
    cases r <;> rfl

/-- The offsets of FB and PB name their bytes. -/
theorem target_of_mem_buffers {o : Nat} (h : (0x10000 ≤ o ∧ o ≤ 0x20007) ∨ (0x30000 ≤ o ∧ o ≤ 0x3FFFE)) :
    ∃ b i, target o = some (.byte b i) := by
  unfold target fbCap pbCap
  rcases h with hfb | hpb
  · rw [if_neg (by omega), if_pos (by omega)]
    exact ⟨_, _, rfl⟩
  · rw [if_neg (by omega), if_neg (by omega), if_pos (by omega)]
    exact ⟨_, _, rfl⟩

/-- The gaps after REG, FB and PB name nothing. -/
theorem target_of_mem_gaps {o : Nat} (h : (0x34 ≤ o ∧ o ≤ 0xFFFF) ∨ (0x20008 ≤ o ∧ o ≤ 0x2FFFF) ∨ o = 0x3FFFF) :
    target o = none := by
  unfold target fbCap pbCap
  rw [if_neg (by omega), if_neg (by omega), if_neg (by omega)]

theorem toNat_ofNat_of_lt_window {o : Nat} (h : o < windowSize) : (BitVec.ofNat 32 o).toNat = o :=
  Nat.mod_eq_of_lt (h.trans (by decide))

/-- An access to REG that is not 32 bits wide, or not aligned, is refused: as misaligned only when its width is right. -/
theorem access_reg_refused {bits o : Nat} (ho : o < 0x34) (h : bits ≠ 32 ∨ o % 4 ≠ 0) :
    access bits (BitVec.ofNat 32 o) = .refuse (if bits = 32 then .misaligned else .wrongWidth) := by
  have hw : o < windowSize := ho.trans (by decide)
  rw [access, toNat_ofNat_of_lt_window hw, if_neg (not_le.mpr hw)]
  rcases target_of_lt_reg ho with ⟨r, ht, haligned⟩ | ht <;> rw [ht]
  · have hbits : bits ≠ 32 := h.resolve_right (not_not.mpr haligned)
    simp only [if_neg hbits]
  · simp only [apply_ite Access.refuse]

/-- An access to a buffer that is not 8 bits wide is refused. -/
theorem access_buffer_refused {bits o : Nat}
    (ho : (0x10000 ≤ o ∧ o ≤ 0x20007) ∨ (0x30000 ≤ o ∧ o ≤ 0x3FFFE)) (hbits : bits ≠ 8) :
    access bits (BitVec.ofNat 32 o) = .refuse .wrongWidth := by
  have hw : o < windowSize := by simp only [windowSize]; omega
  obtain ⟨b, i, ht⟩ := target_of_mem_buffers ho
  rw [access, toNat_ofNat_of_lt_window hw, if_neg (not_le.mpr hw), ht]
  simp only [if_neg hbits]

/-- An access to an unmapped offset of the window is refused at every width. -/
theorem access_gap_refused (bits : Nat) {o : Nat}
    (ho : (0x34 ≤ o ∧ o ≤ 0xFFFF) ∨ (0x20008 ≤ o ∧ o ≤ 0x2FFFF) ∨ o = 0x3FFFF) :
    access bits (BitVec.ofNat 32 o) = .refuse .unmappedOffset := by
  have hw : o < windowSize := by simp only [windowSize]; omega
  rw [access, toNat_ofNat_of_lt_window hw, if_neg (not_le.mpr hw), target_of_mem_gaps ho]

theorem step_read_refused {s : State} {bits : Nat} {offset : Word} {rest : List PortEvent} {r : Refusal}
    (ha : access bits offset = .refuse r) (h : s.port = .read bits offset :: rest) : step s = .refused r := by
  rw [step_read h, ha, serveRead]

theorem step_write_refused {s : State} {bits : Nat} {offset v : Word} {rest : List PortEvent} {r : Refusal}
    (ha : access bits offset = .refuse r) (h : s.port = .write bits offset v :: rest) : step s = .refused r := by
  rw [step_write h, ha, serveWrite]

/-- Settles O37: region by region the address map answers a refusal, which a read and a write both end in. -/
theorem accessesOutsideTheMapAreRefused : Obligations.AccessesOutsideTheMapAreRefused := by
  intro s rest bits o v h
  obtain ⟨r, ha⟩ : ∃ r, access bits (BitVec.ofNat 32 o) = .refuse r := by
    rcases h with ⟨ho, hwidth⟩ | ⟨ho, hbits⟩ | ho
    · exact ⟨_, access_reg_refused ho hwidth⟩
    · exact ⟨_, access_buffer_refused ho hbits⟩
    · exact ⟨_, access_gap_refused bits ho⟩
  exact ⟨fun hp => ⟨r, step_read_refused ha hp⟩, fun hp => ⟨r, step_write_refused ha hp⟩⟩

end Sys2Proof.Machine

/-! The command codes: what the low byte of a write to CMD selects, and that the step runs it (30_encoding.md R100, R101). -/

namespace Sys2Proof.Machine

/-- The command codes of 30_encoding.md R100, row by row. -/
def commandTable : List (Nat × Instr) :=
  [(1, .encData), (2, .encAck), (3, .encNack), (4, .decType), (5, .decId), (6, .decPayload), (7, .decStatus),
    (8, .check), (9, .classify), (10, .srst)]

/-- Bits [7:0] of a value, as a number. -/
theorem toNat_commandCode (w : Word) : (w.setWidth 8).toNat = w.toNat % 256 := BitVec.toNat_setWidth 8 w

theorem decodeCommand_of_mem_table {w : Word} {i : Instr} (h : (w.toNat % 256, i) ∈ commandTable) :
    decodeCommand w = .ok i := by
  rw [← toNat_commandCode] at h
  simp only [commandTable, List.mem_cons, Prod.mk.injEq, List.not_mem_nil, or_false] at h
  rcases h with ⟨hcode, rfl⟩ | ⟨hcode, rfl⟩ | ⟨hcode, rfl⟩ | ⟨hcode, rfl⟩ | ⟨hcode, rfl⟩ | ⟨hcode, rfl⟩ |
    ⟨hcode, rfl⟩ | ⟨hcode, rfl⟩ | ⟨hcode, rfl⟩ | ⟨hcode, rfl⟩
  all_goals simp only [decodeCommand, hcode]

theorem decodeCommand_reserved {w : Word} (h : w.toNat % 256 = 0 ∨ 11 ≤ w.toNat % 256) :
    decodeCommand w = .error .reservedCode := by
  rw [← toNat_commandCode] at h
  unfold decodeCommand
  split
  case h_11 => rfl
  all_goals omega

theorem runCommand_of_decode {v : Word} {i : Instr} (h : decodeCommand v = .ok i) (s : State) :
    runCommand v s = exec i s := by
  rw [runCommand, h]

/-- Settles O50: the low byte finds its row in the table, and the step runs what the value decodes to. -/
theorem commandCodesDecode : Obligations.CommandCodesDecode := by
  constructor
  · intro w n i hrow hcode
    subst hcode
    have hdecode : decodeCommand w = .ok i := decodeCommand_of_mem_table hrow
    refine ⟨hdecode, fun s rest hport => ?_⟩
    rw [step_command hport, runCommand_of_decode hdecode]
  · exact fun w hreserved => decodeCommand_reserved hreserved

end Sys2Proof.Machine

/-! The frame serializer: what a built frame leaves in FB, byte by byte, and what each encoder builds (41_encode.md R130, R132, R133). -/

namespace Sys2Proof.Machine

/-! ### The bytes of a field, as numbers -/

/-- Byte `k` of a value, counted from the least significant. -/
theorem toNat_extractByte {w : Nat} (v : BitVec w) (k : Nat) :
    (v.extractLsb' (8 * k) 8).toNat = v.toNat / 256 ^ k % 256 := by
  rw [BitVec.extractLsb'_toNat, Nat.shiftRight_eq_div_pow, Nat.pow_mul]

theorem toNat_lowByte {w : Nat} (v : BitVec w) : (v.extractLsb' 0 8).toNat = v.toNat % 256 := BitVec.extractLsb'_toNat 0 8 v

theorem toNat_highByte (v : Half) : (v.extractLsb' 8 8).toNat = v.toNat / 256 := by
  have hbyte : (v.extractLsb' 8 8).toNat = v.toNat / 256 % 256 := by simpa using toNat_extractByte v 1
  have := v.isLt
  omega

/-! ### What building a frame stores and what it leaves alone -/

/-- The five header bytes of a built frame: the type, then id and length field, each with its high byte first (30_encoding.md R91). -/
theorem State.buildFrame_header (s : State) (type : Byte) (id lengthField : Half) (payload : List Byte) :
    (s.buildFrame (frameCovered type id lengthField payload)).fbByte 0 = type ∧
    ((s.buildFrame (frameCovered type id lengthField payload)).fbByte 1).toNat = id.toNat / 256 ∧
    ((s.buildFrame (frameCovered type id lengthField payload)).fbByte 2).toNat = id.toNat % 256 ∧
    ((s.buildFrame (frameCovered type id lengthField payload)).fbByte 3).toNat = lengthField.toNat / 256 ∧
    ((s.buildFrame (frameCovered type id lengthField payload)).fbByte 4).toNat = lengthField.toNat % 256 := by
  have hlen : 5 ≤ (frameCovered type id lengthField payload).length := by
    rw [frameCovered_length]
    omega
  rw [State.buildFrame_covered _ _ 0 (by omega), State.buildFrame_covered _ _ 1 (by omega),
    State.buildFrame_covered _ _ 2 (by omega), State.buildFrame_covered _ _ 3 (by omega),
    State.buildFrame_covered _ _ 4 (by omega)]
  exact ⟨rfl, toNat_highByte id, toNat_lowByte id, toNat_highByte lengthField, toNat_lowByte lengthField⟩

/-- A built frame's payload stands behind its header. -/
theorem State.buildFrame_payload (s : State) (type : Byte) (id lengthField : Half) (payload : List Byte) {i : Nat}
    (hi : i < payload.length) :
    (s.buildFrame (frameCovered type id lengthField payload)).fbByte (5 + i) = payload[i] := by
  rw [State.buildFrame_covered _ _ _ (by rw [frameCovered_length]; omega)]
  simp [frameCovered, bytesBe16, Nat.add_comm 5 i]

theorem State.buildFrame_samePb (s : State) (covered : List Byte) : SamePbFrom 0 s (s.buildFrame covered) :=
  fun _ _ => rfl

section
variable (s : State) {covered : List Byte} {n m : Nat}

theorem State.buildFrame_fbBytes_of_length (hn : covered.length = n) : (s.buildFrame covered).fbBytes 0 n = covered := by
  rw [← hn, State.buildFrame_fbBytes]

/-- The trailer over the bytes just written, least significant byte first. -/
theorem State.buildFrame_trailer_of_fb (hn : covered.length = n) {k : Nat} (hk : k < 4) :
    ((s.buildFrame covered).fbByte (n + k)).toNat =
      (crc32 s.cfg.crc ((s.buildFrame covered).fbBytes 0 n)).toNat / 256 ^ k % 256 := by
  rw [s.buildFrame_fbBytes_of_length hn, ← hn, State.buildFrame_trailer _ _ _ hk, toNat_extractByte]

theorem State.buildFrame_sameFb (hm : covered.length + 4 = m) : SameFbFrom m s (s.buildFrame covered) := by
  intro a ha
  rw [State.buildFrame_fbByte, dif_neg]
  rw [withTrailer_length]
  omega

/-- Building a frame writes FLEN, CRCCALC and ERR and no other register. -/
theorem State.buildFrame_regs (hn : covered.length = n) (hm : covered.length + 4 = m) :
    (s.buildFrame covered).regs = { s.regs with
      flen := BitVec.ofNat 17 m
      crccalc := crc32 s.cfg.crc ((s.buildFrame covered).fbBytes 0 n)
      err := 0#8 } := by
  rw [s.buildFrame_fbBytes_of_length hn, ← hm]
  rfl

end

/-! ### The encoders -/

theorem exec_encData_tooLong {s : State} (h : 65535 < s.regs.plen.toNat) :
    exec .encData s = .next (s.fail .payloadTooLong) := by
  simp only [exec, execEncData, if_pos h]

theorem exec_encData_fits {s : State} (h : s.regs.plen.toNat ≤ 65535) :
    exec .encData s = .next (s.buildFrame (frameCovered 0x00#8 s.regs.txid (BitVec.ofNat 16 s.regs.plen.toNat)
      (s.pbBytes 0 s.regs.plen.toNat))) := by
  simp only [exec, execEncData, if_neg (not_lt.mpr h)]

/-- A NACK's header is that of a frame with no payload whose length field holds the status's low byte, as the low byte at offset 4 and as the high byte at offset 3 (30_encoding.md R94). -/
theorem nackHeader_lengthField (offset : NackStatusOffset) (id : Half) (status : Word) :
    ∃ field : Half, nackHeader offset id status = frameCovered 0x02#8 id field [] ∧
      (offset = .four → field.toNat = status.toNat % 256) ∧
      (offset = .three → field.toNat = status.toNat % 256 * 256) := by
  rw [nackHeader_eq]
  cases offset with
  | three => exact ⟨_, rfl, nofun, fun _ => by simp [be16_toNat]⟩
  | four => exact ⟨_, rfl, fun _ => by simp [be16_toNat], nofun⟩

/-- Settles O1: the refusal is `fail`, and a payload that fits is a built frame whose length field holds all of PLEN. -/
theorem encDataBuildsFrame : Obligations.EncDataBuildsFrame := by
  intro s
  refine ⟨fun hlong => exec_encData_tooLong hlong, fun hfits => ⟨_, exec_encData_fits hfits, ?_⟩⟩
  have hfield : (BitVec.ofNat 16 s.regs.plen.toNat).toNat = s.regs.plen.toNat := by
    rw [BitVec.toNat_ofNat]
    omega
  have hcovered : (frameCovered 0x00#8 s.regs.txid (BitVec.ofNat 16 s.regs.plen.toNat)
      (s.pbBytes 0 s.regs.plen.toNat)).length = 5 + s.regs.plen.toNat := by
    rw [frameCovered_length, State.length_pbBytes, Nat.add_comm]
  obtain ⟨htype, hid1, hid0, hlen1, hlen0⟩ := s.buildFrame_header 0x00#8 s.regs.txid
    (BitVec.ofNat 16 s.regs.plen.toNat) (s.pbBytes 0 s.regs.plen.toNat)
  rw [hfield] at hlen1 hlen0
  refine ⟨htype, hid1, hid0, hlen1, hlen0, fun i hi => ?_, fun k hk => s.buildFrame_trailer_of_fb hcovered hk,
    s.buildFrame_sameFb (by omega), s.buildFrame_samePb _, s.buildFrame_sameWorld _,
    s.buildFrame_regs hcovered (by omega)⟩
  rw [s.buildFrame_payload _ _ _ _ (by rwa [State.length_pbBytes]), State.getElem_pbBytes, Nat.zero_add]

/-- Settles O2: ENC_ACK builds a frame with no payload and a length field of 0. -/
theorem encAckBuildsFrame : Obligations.EncAckBuildsFrame := by
  intro s
  obtain ⟨htype, hid1, hid0, hlen1, hlen0⟩ := s.buildFrame_header 0x01#8 s.regs.txid 0#16 []
  exact ⟨_, rfl, htype, hid1, hid0, BitVec.eq_of_toNat_eq hlen1, BitVec.eq_of_toNat_eq hlen0,
    fun _ hk => s.buildFrame_trailer_of_fb rfl hk, s.buildFrame_sameFb rfl, s.buildFrame_samePb _,
    s.buildFrame_sameWorld _, s.buildFrame_regs rfl rfl⟩

/-- Settles O3: ENC_NACK builds a frame with no payload whose length field is the status's low byte, weighed by its offset. -/
theorem encNackBuildsFrame : Obligations.EncNackBuildsFrame := by
  intro s
  obtain ⟨field, hheader, hfour, hthree⟩ := nackHeader_lengthField s.cfg.nackStatusOffset s.regs.txid s.regs.txstatus
  have hexec : exec .encNack s = .next (s.buildFrame (frameCovered 0x02#8 s.regs.txid field [])) := by
    rw [← hheader]
    rfl
  obtain ⟨htype, hid1, hid0, hlen1, hlen0⟩ := s.buildFrame_header 0x02#8 s.regs.txid field []
  refine ⟨_, hexec, htype, hid1, hid0, fun hoffset => ?four, fun hoffset => ?three,
    fun _ hk => s.buildFrame_trailer_of_fb rfl hk, s.buildFrame_sameFb rfl, s.buildFrame_samePb _,
    s.buildFrame_sameWorld _, s.buildFrame_regs rfl rfl⟩
  case four =>
    rw [hfour hoffset] at hlen1 hlen0
    exact ⟨by bv_omega, by omega⟩
  case three =>
    rw [hthree hoffset] at hlen1 hlen0
    exact ⟨by omega, by bv_omega⟩

end Sys2Proof.Machine

/-! The frame deserializer: the number a two-byte field reads as, what a delivered payload leaves in PB, and what each decoder answers (42_decode.md R140 to R143). -/

namespace Sys2Proof.Machine

/-! ### The fields of the frame, as numbers -/

theorem State.frameId_toNat (s : State) : s.frameId.toNat = (s.fbByte 1).toNat * 256 + (s.fbByte 2).toNat :=
  be16_toNat _ _

theorem State.frameLength_toNat (s : State) : s.frameLength.toNat = (s.fbByte 3).toNat * 256 + (s.fbByte 4).toNat :=
  be16_toNat _ _

/-! ### What delivering a payload stores and what it leaves alone -/

theorem State.done_regs (s : State) : s.done.regs = { s.regs with err := 0#8 } := rfl

@[simp] theorem State.done_pbByte (s : State) (x : Nat) : s.done.pbByte x = s.pbByte x := rfl

@[simp] theorem State.deliverPayload_fbByte (s : State) (payload : List Byte) (x : Nat) :
    (s.deliverPayload payload).fbByte x = s.fbByte x := rfl

/-- A delivered range of FB: PB's byte `i` is the range's byte `i`. -/
theorem State.deliverPayload_fbBytes_inside (s : State) (a : Nat) {n i : Nat} (h : i < n) :
    (s.deliverPayload (s.fbBytes a n)).pbByte i = s.fbByte (a + i) := by
  rw [State.deliverPayload_pbByte, dif_pos (by rwa [State.length_fbBytes]), State.getElem_fbBytes]

theorem State.deliverPayload_samePb (s : State) {payload : List Byte} {n : Nat} (hn : payload.length = n) :
    SamePbFrom n s (s.deliverPayload payload) :=
  fun x hx => by rw [State.deliverPayload_pbByte, dif_neg (by omega)]

theorem State.deliverPayload_sameFb (s : State) (payload : List Byte) : SameFbFrom 0 s (s.deliverPayload payload) :=
  fun x _ => s.deliverPayload_fbByte payload x

/-- Delivering a payload writes PLEN and no other register. -/
theorem State.deliverPayload_regs (s : State) (payload : List Byte) :
    (s.deliverPayload payload).regs = { s.regs with plen := BitVec.ofNat 17 payload.length } := rfl

/-! ### The decoders: `fail` when a byte is missing, the field when all are there -/

section
variable {s : State}

theorem exec_decType_truncated (h : s.regs.flen.toNat < 1) : exec .decType s = .next (s.fail .truncated) := by
  simp only [exec, execDecType, if_pos h]

theorem exec_decType_reads (h : 1 ≤ s.regs.flen.toNat) :
    exec .decType s = .next (State.done { s with regs.rtype := s.fbByte 0 }) := by
  simp only [exec, execDecType, if_neg (not_lt.mpr h)]

theorem exec_decId_truncated (h : s.regs.flen.toNat < 3) : exec .decId s = .next (s.fail .truncated) := by
  simp only [exec, execDecId, if_pos h]

theorem exec_decId_reads (h : 3 ≤ s.regs.flen.toNat) :
    exec .decId s = .next (State.done { s with regs.rid := s.frameId }) := by
  simp only [exec, execDecId, if_neg (not_lt.mpr h)]

theorem exec_decStatus_truncated (h : s.regs.flen.toNat < 5) : exec .decStatus s = .next (s.fail .truncated) := by
  simp only [exec, execDecStatus, if_pos h]

theorem exec_decStatus_reads (h : 5 ≤ s.regs.flen.toNat) :
    exec .decStatus s = .next (State.done { s with regs.rstatus := s.frameLength }) := by
  simp only [exec, execDecStatus, if_neg (not_lt.mpr h)]

theorem exec_decPayload_truncated
    (h : s.regs.flen.toNat < 5 ∨ s.regs.flen.toNat < 5 + s.frameLength.toNat) :
    exec .decPayload s = .next (s.fail .truncated) := by
  simp only [exec, execDecPayload]
  by_cases hheader : s.regs.flen.toNat < 5
  · rw [if_pos hheader]
  · rw [if_neg hheader, if_pos (h.resolve_left hheader)]

theorem exec_decPayload_copies (hheader : 5 ≤ s.regs.flen.toNat)
    (hpayload : 5 + s.frameLength.toNat ≤ s.regs.flen.toNat) :
    exec .decPayload s = .next (s.deliverPayload (s.fbBytes 5 s.frameLength.toNat)).done := by
  simp only [exec, execDecPayload, if_neg (not_lt.mpr hheader), if_neg (not_lt.mpr hpayload)]

end

/-- Settles O10: the one test of FLEN decides between `fail` and the raw byte at offset 0. -/
theorem decTypeReadsTypeByte : Obligations.DecTypeReadsTypeByte :=
  fun _ => ⟨fun hthere => exec_decType_reads hthere, fun hshort => exec_decType_truncated hshort⟩

/-- Settles O11: the value RID takes is the frame's id, whose number is its two bytes with the high byte first. -/
theorem decIdReadsBigEndianId : Obligations.DecIdReadsBigEndianId :=
  fun s => ⟨fun hthere => ⟨s.frameId, s.frameId_toNat, exec_decId_reads hthere⟩,
    fun hshort => exec_decId_truncated hshort⟩

/-- Settles O12: the value RSTATUS takes is the frame's length field, whose number is its two bytes with the high byte first. -/
theorem decStatusReadsLengthField : Obligations.DecStatusReadsLengthField :=
  fun s => ⟨fun hthere => ⟨s.frameLength, s.frameLength_toNat, exec_decStatus_reads hthere⟩,
    fun hshort => exec_decStatus_truncated hshort⟩

/-- Settles O13: both tests of FLEN end in `fail`, and past them the range of FB that the length field declares is delivered to PB. -/
theorem decPayloadCopiesDeclaredBytes : Obligations.DecPayloadCopiesDeclaredBytes := by
  intro s n hn
  rw [← s.frameLength_toNat] at hn
  subst hn
  refine ⟨fun hshort => exec_decPayload_truncated hshort, fun hheader hpayload => ?_⟩
  have hexec := exec_decPayload_copies hheader hpayload
  have hlength : (s.fbBytes 5 s.frameLength.toNat).length = s.frameLength.toNat := s.length_fbBytes 5 _
  refine ⟨_, hexec, fun i hi => ?bytes, s.deliverPayload_samePb hlength,
    s.deliverPayload_sameFb (s.fbBytes 5 s.frameLength.toNat), exec_sameWorld hexec, ?regs⟩
  case bytes => rw [State.done_pbByte, s.deliverPayload_fbBytes_inside 5 hi]
  case regs => rw [State.done_regs, State.deliverPayload_regs, hlength]

end Sys2Proof.Machine

/-! The validator: CHECK answers the verdict of its tests, the first that fails deciding (43_check.md R150, R151). -/

namespace Sys2Proof.Machine

/-- The received checksum as a number: the last byte of the frame weighs most. -/
theorem State.frameTrailer_toNat (s : State) (n : Nat) :
    (s.frameTrailer n).toNat = (s.fbByte (n - 4)).toNat + (s.fbByte (n - 3)).toNat * 2 ^ 8 +
      (s.fbByte (n - 2)).toNat * 2 ^ 16 + (s.fbByte (n - 1)).toNat * 2 ^ 24 :=
  le32_toNat _ _ _ _

/-- CHECK ends in the verdict of its tests, on the state they leave. -/
theorem exec_check_of_validate {s t : State} {e : ErrCode} (h : s.validate = (e, t)) :
    exec .check s = .next (t.fail e) := by
  rw [exec, execCheck_eq, h]

/-- Settles O15: the five answers of CHECK's tests are the five branches of the chain, each reached when the tests before it pass. -/
theorem checkVerdictInOrder : Obligations.CheckVerdictInOrder := by
  intro s n l r c hn hl hc hr
  rw [← s.frameLength_toNat] at hl
  rw [← s.frameTrailer_toNat n] at hr
  subst hn hl hc hr
  rcases s.validate_cases with ⟨hshort, hv⟩ | ⟨hlong, htype, hv⟩ | ⟨hlong, htype, hlength, hv⟩ |
    ⟨hlong, htype, hlength, hsum, hv⟩ | ⟨hlong, htype, hlength, hsum, hv⟩ <;>
    rw [exec_check_of_validate hv]
  · rw [if_pos hshort]
    rfl
  · rw [if_neg (not_lt.mpr hlong), if_pos htype]
    rfl
  · rw [if_neg (not_lt.mpr hlong), if_neg (not_lt.mpr htype), if_pos hlength]
    rfl
  · rw [if_neg (not_lt.mpr hlong), if_neg (not_lt.mpr htype), if_neg (not_not.mpr hlength),
      if_pos (BitVec.toNat_ne_iff_ne.mpr hsum)]
    rfl
  · rw [if_neg (not_lt.mpr hlong), if_neg (not_lt.mpr htype), if_neg (not_not.mpr hlength),
      if_neg (not_not.mpr (congrArg BitVec.toNat hsum))]
    rfl

end Sys2Proof.Machine

/-! The classifier: which of its stages decides (44_classify.md R160, R161), and the table of the dispatch stage (R162, R163, R165). -/

namespace Sys2Proof.Machine

/-! ### The stage that decides -/

section
variable {s t : State} {e : ErrCode}

theorem exec_classify_halted (hhalt : s.halt = true) : exec .classify s = .next (s.rejectFrame .halted) := by
  rw [exec, execClassify, if_pos hhalt]

theorem exec_classify_rejected (hhalt : ¬ s.halt = true) (hchken : s.chken = true) (hv : s.validate = (e, t))
    (he : e ≠ .ok) : exec .classify s = .next (t.rejectFrame e) := by
  rw [exec, execClassify, if_neg hhalt, if_pos hchken, hv]
  cases e with
  | ok => exact absurd rfl he
  | _ => rfl

theorem exec_classify_accepted (hhalt : ¬ s.halt = true) (hchken : s.chken = true) (hv : s.validate = (.ok, t)) :
    exec .classify s = dispatch t := by
  rw [exec, execClassify, if_neg hhalt, if_pos hchken, hv]

theorem exec_classify_unchecked (hhalt : ¬ s.halt = true) (hchken : ¬ s.chken = true) :
    exec .classify s = dispatch s := by
  rw [exec, execClassify, if_neg hhalt, if_neg hchken]

end

/-! ### The dispatch stage -/

/-- The rows of the dispatch stage run from `s`: no type byte, an unknown type, a field missing, then one row for each kind (44_classify.md R162, R163, R165). -/
def DispatchRow (s t : State) : Prop :=
  if s.regs.flen.toNat = 0 then
    t = { s with regs.evt := 0#4, regs.status := if s.fatalen then 1#1 else s.regs.status, regs.err := 5#8 }
  else if 2 < (s.fbByte 0).toNat then
    t = { s with
      regs.evt := 0#4, regs.status := if s.fatalen then 1#1 else s.regs.status, regs.rtype := s.fbByte 0, regs.err := 7#8 }
  else if ((s.fbByte 0).toNat = 0 ∧ (s.regs.flen.toNat < 5 ∨ s.regs.flen.toNat < 5 + s.frameLength.toNat)) ∨
      ((s.fbByte 0).toNat = 1 ∧ s.regs.flen.toNat < 3) ∨ ((s.fbByte 0).toNat = 2 ∧ s.regs.flen.toNat < 5) then
    t = { s with
      regs.evt := 0#4, regs.status := if s.fatalen then 1#1 else s.regs.status, regs.rtype := s.fbByte 0, regs.err := 5#8 }
  else if (s.fbByte 0).toNat = 0 then
    t.regs = { s.regs with
      rtype := 0#8, rid := s.frameId, plen := BitVec.ofNat 17 s.frameLength.toNat, evt := 0b1100#4, err := 0#8 } ∧
    (∀ i, i < s.frameLength.toNat → t.pbByte i = s.fbByte (5 + i)) ∧
    SamePbFrom s.frameLength.toNat s t ∧ SameFbFrom 0 s t ∧ SameWorld s t
  else if (s.fbByte 0).toNat = 1 then
    t = { s with regs.rtype := 1#8, regs.rid := s.frameId, regs.evt := 0b0101#4, regs.err := 0#8 }
  else
    t = { s with
      regs.rtype := 2#8, regs.rid := s.frameId, regs.rstatus := s.frameLength, regs.evt := 0b0110#4, regs.err := 0#8 }

/-- What the kind DATA leaves: the payload in PB, the fields in their registers, the rest as it was. -/
theorem dispatch_data_delivers {s t : State} (htype : s.fbByte 0 = 0#8)
    (ht : t = State.done
      { ({ s with regs.rtype := s.fbByte 0 } : State).deliverPayload (s.fbBytes 5 s.frameLength.toNat) with
        regs.rid := s.frameId, regs.evt := evtData }) :
    t.regs = { s.regs with
      rtype := 0#8, rid := s.frameId, plen := BitVec.ofNat 17 s.frameLength.toNat, evt := 0b1100#4, err := 0#8 } ∧
    (∀ i, i < s.frameLength.toNat → t.pbByte i = s.fbByte (5 + i)) ∧
    SamePbFrom s.frameLength.toNat s t ∧ SameFbFrom 0 s t ∧ SameWorld s t := by
  have hlength : (s.fbBytes 5 s.frameLength.toNat).length = s.frameLength.toNat := s.length_fbBytes 5 _
  subst ht
  refine ⟨?regs, fun i hi => s.deliverPayload_fbBytes_inside 5 hi, s.deliverPayload_samePb hlength,
    s.deliverPayload_sameFb (s.fbBytes 5 s.frameLength.toNat), ⟨rfl, rfl, rfl, rfl⟩⟩
  case regs =>
    simp only [State.done_regs, State.deliverPayload_regs, hlength, htype, evtData]

theorem dispatch_row (s : State) : ∃ t, dispatch s = .next t ∧ DispatchRow s t := by
  unfold DispatchRow
  rcases dispatch_outcomes s with ⟨hempty, hd⟩ | ⟨hlen, htype, hfields, hd⟩ | ⟨hlen, htype, hfields, hd⟩ |
    ⟨hlen, htype, hfields, hd⟩ | ⟨hlen, htype, hd⟩ | ⟨hlen, hmissing, hd⟩ <;>
    refine ⟨_, hd, ?_⟩
  · rw [if_pos (by omega)]
    exact s.dispatchFail_eq _
  · rw [if_neg (by omega), if_neg (by omega), if_neg (by omega), if_pos htype]
    exact dispatch_data_delivers (BitVec.eq_of_toNat_eq htype) rfl
  · rw [if_neg (by omega), if_neg (by omega), if_neg (by omega), if_neg (by omega), if_pos htype,
      show s.fbByte 0 = 1#8 from BitVec.eq_of_toNat_eq htype]
    rfl
  · rw [if_neg (by omega), if_neg (by omega), if_neg (by omega), if_neg (by omega), if_neg (by omega),
      show s.fbByte 0 = 2#8 from BitVec.eq_of_toNat_eq htype]
    rfl
  · rw [if_neg (by omega), if_pos htype]
    exact State.dispatchFail_eq _ _
  · rw [if_neg (by omega), if_neg (by omega), if_pos (by omega)]
    exact State.dispatchFail_eq _ _

/-- Settles O18: the halt gate and CHECK's four failures each give their row; a frame that passes, or is not checked, gives the row of the dispatch stage. -/
theorem classifyOutcomes : Obligations.ClassifyOutcomes := by
  intro s n k l c halt s1 hn hk hl hc hhalt hs1
  subst hn hk hl hc hhalt
  by_cases hgate : s.halt = true
  · exact ⟨_, exec_classify_halted hgate, by rw [if_pos hgate]; rfl⟩
  by_cases hchken : s.chken = true
  · rw [if_pos hchken] at hs1
    subst hs1
    rcases s.validate_cases with ⟨hshort, hv⟩ | ⟨hlong, htype, hv⟩ | ⟨hlong, htype, hlength, hv⟩ |
      ⟨hlong, htype, hlength, hsum, hv⟩ | ⟨hlong, htype, hlength, hsum, hv⟩
    · refine ⟨_, exec_classify_rejected hgate hchken hv nofun, ?_⟩
      rw [if_neg hgate, if_pos ⟨hchken, hshort⟩]
      rfl
    · refine ⟨_, exec_classify_rejected hgate hchken hv nofun, ?_⟩
      rw [if_neg hgate, if_neg (by omega), if_pos ⟨hchken, htype⟩]
      rfl
    · refine ⟨_, exec_classify_rejected hgate hchken hv nofun, ?_⟩
      rw [if_neg hgate, if_neg (by omega), if_neg (by omega), if_pos ⟨hchken, hlength⟩]
      rfl
    · refine ⟨_, exec_classify_rejected hgate hchken hv nofun, ?_⟩
      rw [if_neg hgate, if_neg (by omega), if_neg (by omega), if_neg (by omega), if_pos ⟨hchken, hsum⟩]
      rfl
    · obtain ⟨t, hd, hrow⟩ := dispatch_row
        { s with regs.crccalc := crc32 s.cfg.crc (s.fbBytes 0 (s.regs.flen.toNat - 4)) }
      refine ⟨t, (exec_classify_accepted hgate hchken hv).trans hd, ?_⟩
      rw [if_neg hgate, if_neg (by omega), if_neg (by omega), if_neg (by omega), if_neg fun h => h.2 hsum]
      exact hrow
  · obtain ⟨t, hd, hrow⟩ := dispatch_row s
    refine ⟨t, (exec_classify_unchecked hgate hchken).trans hd, ?_⟩
    rw [if_neg hgate, if_neg fun h => hchken h.1, if_neg fun h => hchken h.1, if_neg fun h => hchken h.1,
      if_neg fun h => hchken h.1, hs1, if_neg hchken]
    exact hrow

end Sys2Proof.Machine

/-! Control: what SRST resets and keeps, and what a reserved code does (45_control.md R180, R181). -/

namespace Sys2Proof.Machine

theorem exec_srst (s : State) : exec .srst s = .next s.resetRegisters := rfl

/-- The reset values as a host reads them: 3 in CTRL, 0 in every other register (10_state.md R42). -/
theorem State.resetRegisters_readReg (s : State) (r : Reg) :
    s.resetRegisters.readReg r = if r = .ctrl then 3#32 else 0#32 := by
  cases r <;> rfl

/-- A buffer byte is read from the written bytes and, where there is none, from the free values of `epoch`; SRST keeps both. -/
theorem State.resetRegisters_sameBuffers (s : State) : SameBuffers s s.resetRegisters := by
  constructor
  · intro a _
    rw [State.fbByte, State.fbByte, State.resetRegisters_fb, State.resetRegisters_epoch]
  · intro a _
    rw [State.pbByte, State.pbByte, State.resetRegisters_pb, State.resetRegisters_epoch]

theorem runCommand_reserved {v : Word} (h : v.toNat % 256 = 0 ∨ 11 ≤ v.toNat % 256) (s : State) :
    runCommand v s = .next (s.fail .badOp) := by
  rw [runCommand, decodeCommand_reserved h]

/-- Settles O31: SRST ends in `resetRegisters`, whose registers read their reset values and whose buffers and world are the old ones. -/
theorem srstResetsRegisters : Obligations.SrstResetsRegisters := by
  intro s
  refine ⟨s.resetRegisters, exec_srst s, ?ctrl, ?others, s.resetRegisters_sameBuffers, exec_sameWorld (exec_srst s)⟩
  case ctrl => rw [State.resetRegisters_readReg, if_pos rfl]
  case others =>
    intro r hr
    rw [State.resetRegisters_readReg, if_neg hr]

/-- Settles O32: the write reaches CMD, its value decodes to no command, and `fail E_BAD_OP` writes ERR alone. -/
theorem reservedCodeOnlySetsErr : Obligations.ReservedCodeOnlySetsErr := by
  intro s v rest hport hreserved
  rw [step_command hport, runCommand_reserved hreserved]
  rfl

end Sys2Proof.Machine

/-! Errors: what a failing command leaves behind (60_exceptions.md R256), and the one way into the halted state (R258). -/

namespace Sys2Proof.Machine

/-! ### Buffers no failure writes -/

theorem SameBuffers.trans {s t u : State} (hst : SameBuffers s t) (htu : SameBuffers t u) : SameBuffers s u :=
  ⟨fun a ha => (htu.1 a ha).trans (hst.1 a ha), fun a ha => (htu.2 a ha).trans (hst.2 a ha)⟩

/-- A byte is read from the written bytes and the free values of `epoch` alone. -/
theorem sameBuffers_of_eq {s t : State} (hfb : t.fb = s.fb) (hpb : t.pb = s.pb) (hepoch : t.epoch = s.epoch) :
    SameBuffers s t :=
  ⟨fun a _ => by rw [State.fbByte, State.fbByte, hfb, hepoch], fun a _ => by rw [State.pbByte, State.pbByte, hpb, hepoch]⟩

theorem State.fail_sameBuffers (s : State) (e : ErrCode) : SameBuffers s (s.fail e) := sameBuffers_of_eq rfl rfl rfl

theorem State.rejectFrame_sameBuffers (s : State) (e : ErrCode) : SameBuffers s (s.rejectFrame e) :=
  sameBuffers_of_eq rfl rfl rfl

theorem State.dispatchFail_sameBuffers (s : State) (e : ErrCode) : SameBuffers s (s.dispatchFail e) :=
  sameBuffers_of_eq (s.dispatchFail_fb e) (s.dispatchFail_pb e) (s.dispatchFail_epoch e)

theorem State.validate_sameBuffers (s : State) : SameBuffers s s.validate.2 := by
  rcases s.validate_snd with h | h <;> rw [h] <;> exact sameBuffers_of_eq rfl rfl rfl

/-! ### The commands without a validation or dispatch stage -/

/-- A command that makes one test and then ends in `done` has written nothing when it ends in an error. -/
theorem eq_fail_of_test {c : Prop} [Decidable c] {s t u : State} {e : ErrCode}
    (h : (if c then .next (s.fail e) else .next u.done : Host.Outcome State Fault Refusal) = .next t)
    (herr : t.regs.err ≠ 0#8) : t = s.fail e := by
  split at h <;> cases h
  · rfl
  · exact absurd rfl herr

/-- An instruction with neither a validation nor a dispatch stage changes ERR alone when it fails. -/
theorem exec_failed {i : Instr} {s t : State} (hcheck : i ≠ .check) (hclassify : i ≠ .classify)
    (h : exec i s = .next t) (herr : t.regs.err ≠ 0#8) : ∃ e, t = s.fail e := by
  cases i with
  | check => exact absurd rfl hcheck
  | classify => exact absurd rfl hclassify
  | encData | decType | decId | decStatus => exact ⟨_, eq_fail_of_test h herr⟩
  | decPayload =>
    by_cases hshort : s.regs.flen.toNat < 5 ∨ s.regs.flen.toNat < 5 + s.frameLength.toNat
    · rw [exec_decPayload_truncated hshort] at h
      cases h
      exact ⟨_, rfl⟩
    · rw [exec_decPayload_copies (by omega) (by omega)] at h
      cases h
      exact absurd rfl herr
  | data id payload =>
    simp only [exec, execData] at h
    split at h <;> cases h
    exact absurd rfl herr
  | encAck | encNack | srst | ack id | nack id status =>
    cases h
    exact absurd rfl herr

/-! ### The validation stage -/

theorem State.validFrame_of_validate {s : State} (h : s.validate.1 = .ok) : s.ValidFrame := by
  rcases s.validate_cases with ⟨_, hv⟩ | ⟨_, _, hv⟩ | ⟨_, _, _, hv⟩ | ⟨_, _, _, _, hv⟩ | ⟨hlong, htype, hlength, hsum, _⟩
  case inr.inr.inr.inr => exact ⟨hlong, htype, hlength, hsum⟩
  all_goals rw [hv] at h; cases h

/-- A validation that fails answers no code of the dispatch stage, and has written CRCCALC before E_CHECKSUM_MISMATCH only (43_check.md R150). -/
theorem State.validate_failed {s : State} (h : s.validate.1 ≠ .ok) :
    ¬ (s.validate.1.code = 5#8 ∨ s.validate.1.code = 7#8) ∧
    s.validate.2 = { s with
      regs.crccalc := if s.validate.1.code = 4#8 then crc32 s.cfg.crc (s.fbBytes 0 (s.regs.flen.toNat - 4))
        else s.regs.crccalc } := by
  rcases s.validate_cases with ⟨_, hv⟩ | ⟨_, _, hv⟩ | ⟨_, _, _, hv⟩ | ⟨_, _, _, _, hv⟩ | ⟨_, _, _, _, hv⟩
  case inr.inr.inr.inr => exact absurd (congrArg Prod.fst hv) h
  all_goals
    rw [hv]
    dsimp only
    exact ⟨by decide, rfl⟩

/-- A failing CHECK failed in its tests. -/
theorem exec_check_failed {s t : State} (h : exec .check s = .next t) (herr : t.regs.err ≠ 0#8) :
    s.validate.1 ≠ .ok ∧ t = s.validate.2.fail s.validate.1 := by
  rw [exec, execCheck_eq] at h
  cases h
  refine ⟨fun hok => herr ?_, rfl⟩
  rw [State.fail_err, hok]
  rfl

/-! ### The dispatch stage -/

/-- The state in which the dispatch stage selects: RTYPE holds the type byte, if the frame has one (44_classify.md R162). -/
def State.takeTypeByte (s : State) : State :=
  { s with regs.rtype := if 1 ≤ s.regs.flen.toNat then s.fbByte 0 else s.regs.rtype }

theorem State.takeTypeByte_of_empty {s : State} (h : s.regs.flen.toNat < 1) : s.takeTypeByte = s := by
  rw [State.takeTypeByte, if_neg (not_le.mpr h)]

theorem State.takeTypeByte_of_nonempty {s : State} (h : 1 ≤ s.regs.flen.toNat) :
    s.takeTypeByte = { s with regs.rtype := s.fbByte 0 } := by
  rw [State.takeTypeByte, if_pos h]

/-- The dispatch stage ends in success, with STATUS as it was, or in a dispatch failure, which no valid frame meets (44_classify.md R164, R165). -/
theorem dispatch_ends {s t : State} (h : dispatch s = .next t) :
    (t.regs.err = 0#8 ∧ t.regs.status = s.regs.status) ∨
    (¬ s.ValidFrame ∧ ∃ e, (e = .truncated ∨ e = .unknownType) ∧ t = s.takeTypeByte.dispatchFail e) := by
  rcases dispatch_outcomes s with ⟨hempty, hd⟩ | ⟨_, _, _, hd⟩ | ⟨_, _, _, hd⟩ | ⟨_, _, _, hd⟩ | ⟨hlen, htype, hd⟩ |
    ⟨hlen, hmissing, hd⟩ <;> rw [hd] at h <;> cases h
  · refine .inr ⟨fun ⟨hmin, _⟩ => by omega, .truncated, .inl rfl, ?_⟩
    rw [State.takeTypeByte_of_empty hempty]
  · exact .inl ⟨rfl, rfl⟩
  · exact .inl ⟨rfl, rfl⟩
  · exact .inl ⟨rfl, rfl⟩
  · refine .inr ⟨fun ⟨_, hlegal, _⟩ => by omega, .unknownType, .inr rfl, ?_⟩
    rw [State.takeTypeByte_of_nonempty hlen]
  · refine .inr ⟨fun ⟨hmin, _, hlength, _⟩ => by omega, .truncated, .inl rfl, ?_⟩
    rw [State.takeTypeByte_of_nonempty hlen]

/-- The four ends of CLASSIFY: success, the halt gate, a validation that fails, and, only without one, a dispatch failure (44_classify.md R160 to R165). -/
theorem exec_classify_ends {s t : State} (h : exec .classify s = .next t) :
    (t.regs.err = 0#8 ∧ t.regs.status = s.regs.status) ∨
    t = s.rejectFrame .halted ∨
    (s.validate.1 ≠ .ok ∧ t = s.validate.2.rejectFrame s.validate.1) ∨
    (s.chken = false ∧ ∃ e, (e = .truncated ∨ e = .unknownType) ∧ t = s.takeTypeByte.dispatchFail e) := by
  rw [exec] at h
  rcases execClassify_cases s with ⟨_, hc⟩ | ⟨_, _, hfailed, hc⟩ | ⟨_, _, hok, hc⟩ | ⟨_, hchken, hc⟩ <;> rw [hc] at h
  · cases h
    exact .inr (.inl rfl)
  · cases h
    exact .inr (.inr (.inl ⟨hfailed, rfl⟩))
  · left
    have hvalid : s.ValidFrame := State.validFrame_of_validate hok
    rcases s.validate_snd with hv | hv <;> rw [hv] at h <;>
      exact (dispatch_ends h).resolve_right fun ⟨hinvalid, _⟩ => hinvalid hvalid
  · exact (dispatch_ends h).imp_right fun ⟨_, hfail⟩ => .inr (.inr ⟨hchken, hfail⟩)

/-! ### R256: errors are precise -/

theorem exec_failed_sameBuffers {i : Instr} {s t : State} (h : exec i s = .next t) (herr : t.regs.err ≠ 0#8) :
    SameBuffers s t := by
  by_cases hcheck : i = .check
  · subst hcheck
    obtain ⟨_, rfl⟩ := exec_check_failed h herr
    exact s.validate_sameBuffers.trans (State.fail_sameBuffers _ _)
  by_cases hclassify : i = .classify
  · subst hclassify
    rcases exec_classify_ends h with ⟨hok, _⟩ | rfl | ⟨_, rfl⟩ | ⟨_, e, _, rfl⟩
    · exact absurd hok herr
    · exact s.rejectFrame_sameBuffers _
    · exact s.validate_sameBuffers.trans (State.rejectFrame_sameBuffers _ _)
    · exact State.dispatchFail_sameBuffers s.takeTypeByte e
  obtain ⟨e, rfl⟩ := exec_failed hcheck hclassify h herr
  exact s.fail_sameBuffers e

theorem exec_check_failed_regs {s t : State} (h : exec .check s = .next t) (herr : t.regs.err ≠ 0#8) :
    t.regs = { s.regs with
      err := t.regs.err
      crccalc := if t.regs.err = 4#8 then crc32 s.cfg.crc (s.fbBytes 0 (s.regs.flen.toNat - 4)) else s.regs.crccalc } := by
  obtain ⟨hfailed, rfl⟩ := exec_check_failed h herr
  obtain ⟨-, hv⟩ := State.validate_failed hfailed
  rw [State.fail_err, State.fail, hv]

theorem exec_classify_failed_regs {s t : State} (h : exec .classify s = .next t) (herr : t.regs.err ≠ 0#8) :
    t.regs = { s.regs with
      err := t.regs.err
      evt := 0#4
      crccalc := if t.regs.err = 4#8 then crc32 s.cfg.crc (s.fbBytes 0 (s.regs.flen.toNat - 4)) else s.regs.crccalc
      rtype := if (t.regs.err = 5#8 ∨ t.regs.err = 7#8) ∧ 1 ≤ s.regs.flen.toNat then s.fbByte 0 else s.regs.rtype
      status := if (t.regs.err = 5#8 ∨ t.regs.err = 7#8) ∧ s.fatalen then 1#1 else s.regs.status } := by
  rcases exec_classify_ends h with ⟨hok, _⟩ | rfl | ⟨hfailed, rfl⟩ | ⟨_, e, he, rfl⟩
  · exact absurd hok herr
  · rfl
  · obtain ⟨hstage, hv⟩ := State.validate_failed hfailed
    rw [State.rejectFrame_err, if_neg fun hc => hstage hc.1, if_neg fun hc => hstage hc.1,
      State.rejectFrame, State.fail, hv]
    rfl
  · have hcode : (e.code = 5#8 ∨ e.code = 7#8) ∧ e.code ≠ 4#8 := by
      rcases he with rfl | rfl <;> decide
    obtain ⟨hstage, hsum⟩ := hcode
    simp only [State.dispatchFail_err, hstage, if_neg hsum, true_and]
    rw [State.dispatchFail_eq]
    rfl

/-- Settles O29: most commands fail from the state they started in, CHECK from the one its tests left, and CLASSIFY in one of its three stages. -/
theorem errorsArePrecise : Obligations.ErrorsArePrecise := by
  intro i s t h herr
  refine ⟨exec_failed_sameBuffers h herr, exec_sameWorld h, fun hcheck hclassify => ?others, ?check, ?classify⟩
  case others =>
    obtain ⟨e, rfl⟩ := exec_failed hcheck hclassify h herr
    rfl
  case check =>
    rintro rfl
    exact exec_check_failed_regs h herr
  case classify =>
    rintro rfl
    exact exec_classify_failed_regs h herr

/-! ### R258: the way into the halted state -/

theorem State.halt_eq_of_status {s t : State} (h : t.regs.status = s.regs.status) : t.halt = s.halt := by
  rw [State.halt, State.halt, h]

/-- A value that decodes has its code in the table: the converse of `decodeCommand_of_mem_table`. -/
theorem mem_commandTable_of_decode {w : Word} {i : Instr} (h : decodeCommand w = .ok i) :
    (w.toNat % 256, i) ∈ commandTable := by
  rw [← toNat_commandCode]
  unfold decodeCommand at h
  split at h
  case h_11 => cases h
  all_goals
    rename_i hcode
    cases h
    rw [hcode]
    decide

theorem State.resetRegisters_halt (s : State) : s.resetRegisters.halt = false := by
  rw [State.halt, State.resetRegisters_status]
  decide

theorem State.hardReset_halt (s : State) : s.hardReset.halt = false := by
  rw [State.halt, State.hardReset_status]
  decide

/-- Of the instructions only CLASSIFY can set HALT: SRST clears it and the others keep it. -/
theorem exec_keeps_halt_clear {i : Instr} {s t : State} (hi : i ≠ .classify) (h : exec i s = .next t)
    (hs : s.halt = false) : t.halt = false := by
  cases i with
  | classify => exact absurd rfl hi
  | encData | decType | decId | decStatus | data =>
    simp only [exec, execEncData, execDecType, execDecId, execDecStatus, execData] at h
    split at h <;> cases h <;> exact hs
  | decPayload =>
    simp only [exec, execDecPayload] at h
    split at h
    · cases h
      exact hs
    · split at h <;> cases h <;> exact hs
  | check =>
    rw [exec, execCheck_eq] at h
    cases h
    rcases s.validate_snd with hv | hv <;> rw [hv] <;> exact hs
  | srst =>
    cases h
    exact s.resetRegisters_halt
  | encAck | encNack | ack id | nack id status =>
    cases h
    exact hs

/-- CLASSIFY sets HALT at a dispatch failure alone, and only with FATALEN 1. -/
theorem exec_classify_sets_halt {s t : State} (h : exec .classify s = .next t) (hs : s.halt = false)
    (ht : t.halt = true) :
    s.chken = false ∧ s.fatalen = true ∧ (t.regs.err = 7#8 ∨ t.regs.err = 5#8) := by
  have hwritten : t.regs.status ≠ s.regs.status := fun hsame => by
    rw [State.halt_eq_of_status hsame, hs] at ht
    cases ht
  rcases exec_classify_ends h with ⟨_, hstatus⟩ | rfl | ⟨_, rfl⟩ | ⟨hchken, e, he, rfl⟩
  · exact absurd hstatus hwritten
  · exact absurd rfl hwritten
  · refine absurd ?_ hwritten
    rcases s.validate_snd with hv | hv <;> rw [hv] <;> rfl
  · refine ⟨hchken, ?_, ?_⟩
    · by_contra hfatalen
      exact hwritten ((State.dispatchFail_status _ _).trans (if_neg hfatalen))
    · rw [State.dispatchFail_err]
      rcases he with rfl | rfl
      · exact .inr rfl
      · exact .inl rfl

/-- A CLASSIFY that reaches the dispatch stage unvalidated, with FATALEN 1, and fails there sets HALT. -/
theorem exec_classify_failed_halts {s t : State} (h : exec .classify s = .next t) (hs : s.halt = false)
    (hchken : s.chken = false) (hfatalen : s.fatalen = true) (herr : t.regs.err ≠ 0#8) : t.halt = true := by
  rw [exec_classify_unchecked (by simp [hs]) (by simp [hchken])] at h
  rcases dispatch_ends h with ⟨hok, _⟩ | ⟨_, e, _, rfl⟩
  · exact absurd hok herr
  · have hstatus : (s.takeTypeByte.dispatchFail e).regs.status = 1#1 :=
      (State.dispatchFail_status _ _).trans (if_pos hfatalen)
    rw [State.halt, hstatus]
    rfl

theorem runCommand_sets_halt {v : Word} {s t : State} (h : runCommand v s = .next t) (hs : s.halt = false)
    (ht : t.halt = true) :
    v.toNat % 256 = 9 ∧ s.chken = false ∧ s.fatalen = true ∧ (t.regs.err = 7#8 ∨ t.regs.err = 5#8) := by
  unfold runCommand at h
  split at h
  case h_1 i hdecode =>
    by_cases hi : i = .classify
    · subst hi
      have hcode : v.toNat % 256 = 9 := by simpa [commandTable] using mem_commandTable_of_decode hdecode
      exact ⟨hcode, exec_classify_sets_halt h hs ht⟩
    · rw [exec_keeps_halt_clear hi h hs] at ht
      cases ht
  case h_2 =>
    cases h
    rw [State.halt_eq_of_status (s.fail_status _), hs] at ht
    cases ht

/-- Settles O25: a step that neither writes CMD nor resets keeps STATUS; of the commands only CLASSIFY sets HALT, and of its ends only the dispatch failure does. -/
theorem haltEnteredOnlyByDispatchFailure : Obligations.HaltEnteredOnlyByDispatchFailure := by
  constructor
  · intro s t h hs ht
    by_cases hcmd : ∃ v rest, s.port = commandWrite v :: rest
    · obtain ⟨v, rest, hport⟩ := hcmd
      rw [step_command hport] at h
      have hcause := runCommand_sets_halt h hs ht
      exact ⟨v, rest, hport, hcause⟩
    by_cases hreset : ∃ rest, s.port = .hardReset :: rest
    · obtain ⟨rest, hport⟩ := hreset
      rw [step_serve hport] at h
      cases h
      rw [State.hardReset_halt] at ht
      cases ht
    · have hregs := step_keeps_results h (fun v rest hport => hcmd ⟨v, rest, hport⟩) fun rest hport => hreset ⟨rest, hport⟩
      have hstatus : t.regs.status = s.regs.status := by rw [hregs]
      rw [State.halt_eq_of_status hstatus, hs] at ht
      cases ht
  · intro s t v rest hport hcode hs hchken hfatalen h herr
    have hdecode : decodeCommand v = .ok .classify := decodeCommand_of_mem_table (by rw [hcode]; decide)
    rw [step_command hport, runCommand_of_decode hdecode] at h
    exact exec_classify_failed_halts h hs hchken hfatalen herr

end Sys2Proof.Machine

/-! Frames that a host builds and then reads back: the fields of a built frame, that it passes CHECK's tests when its length field is right, and what the decoders and CLASSIFY give back of it (41_encode.md, Laws of the encoders). -/

namespace Sys2Proof.Machine

/-! ### CHECK's tests, one law for each answer (43_check.md R150, R151) -/

section
variable {s : State}

theorem State.validate_of_short (h : s.regs.flen.toNat < 9) : s.validate = (.tooShort, s) := by
  simp only [State.validate, if_pos h]

theorem State.validate_of_badType (hmin : 9 ≤ s.regs.flen.toNat) (htype : 2 < (s.fbByte 0).toNat) :
    s.validate = (.badType, s) := by
  simp only [State.validate, if_neg (not_lt.mpr hmin), if_pos htype]

theorem State.validate_of_badLength (hmin : 9 ≤ s.regs.flen.toNat) (htype : (s.fbByte 0).toNat ≤ 2)
    (hlength : s.frameLength.toNat + 9 ≠ s.regs.flen.toNat) : s.validate = (.lengthMismatch, s) := by
  simp only [State.validate, if_neg (not_lt.mpr hmin), if_neg (not_lt.mpr htype), if_pos hlength]

theorem State.validate_of_badSum (hmin : 9 ≤ s.regs.flen.toNat) (htype : (s.fbByte 0).toNat ≤ 2)
    (hlength : s.frameLength.toNat + 9 = s.regs.flen.toNat)
    (hsum : crc32 s.cfg.crc (s.fbBytes 0 (s.regs.flen.toNat - 4)) ≠ s.frameTrailer s.regs.flen.toNat) :
    s.validate = (.checksumMismatch,
      { s with regs.crccalc := crc32 s.cfg.crc (s.fbBytes 0 (s.regs.flen.toNat - 4)) }) := by
  simp only [State.validate, if_neg (not_lt.mpr hmin), if_neg (not_lt.mpr htype), if_neg (not_not.mpr hlength),
    if_pos hsum]

theorem State.validate_of_validFrame (h : s.ValidFrame) :
    s.validate = (.ok, { s with regs.crccalc := crc32 s.cfg.crc (s.fbBytes 0 (s.regs.flen.toNat - 4)) }) := by
  obtain ⟨hmin, htype, hlength, hsum⟩ := h
  simp only [State.validate, if_neg (not_lt.mpr hmin), if_neg (not_lt.mpr htype), if_neg (not_not.mpr hlength),
    if_neg (not_not.mpr hsum)]

theorem exec_check_of_validFrame (h : s.ValidFrame) : exec .check s = .next (State.done
    { s with regs.crccalc := crc32 s.cfg.crc (s.fbBytes 0 (s.regs.flen.toNat - 4)) }) :=
  exec_check_of_validate (State.validate_of_validFrame h)

end

/-! ### The fields of a built frame -/

section
variable (s : State) (covered : List Byte)

/-- A frame that fits in FB has its length in FLEN without loss. -/
theorem State.buildFrame_flen_toNat (h : covered.length + 4 ≤ fbCap) :
    (s.buildFrame covered).regs.flen.toNat = covered.length + 4 := by
  rw [State.buildFrame_flen, BitVec.toNat_ofNat]
  simp only [fbCap, trlLen] at *
  omega

/-- The whole of a built frame, trailer included, read back as a list. -/
theorem State.buildFrame_fbBytes_whole :
    (s.buildFrame covered).fbBytes 0 (covered.length + 4) = withTrailer s.cfg.crc covered := by
  apply List.ext_getElem
  · rw [State.length_fbBytes, withTrailer_length]
  · intro i _ hi
    rw [State.getElem_fbBytes, Nat.zero_add, State.buildFrame_fbByte, dif_pos hi]

end

section
variable (s : State) (type : Byte) (id field : Half) (payload : List Byte)

theorem State.buildFrame_frameId :
    (s.buildFrame (frameCovered type id field payload)).frameId = id := by
  obtain ⟨-, hid1, hid0, -, -⟩ := s.buildFrame_header type id field payload
  apply BitVec.eq_of_toNat_eq
  rw [State.frameId_toNat, hid1, hid0, Nat.div_add_mod']

theorem State.buildFrame_frameLength :
    (s.buildFrame (frameCovered type id field payload)).frameLength = field := by
  obtain ⟨-, -, -, hlen1, hlen0⟩ := s.buildFrame_header type id field payload
  apply BitVec.eq_of_toNat_eq
  rw [State.frameLength_toNat, hlen1, hlen0, Nat.div_add_mod']

theorem State.buildFrame_typeByte : (s.buildFrame (frameCovered type id field payload)).fbByte 0 = type :=
  (s.buildFrame_header type id field payload).1

/-- FLEN of a built frame: nine bytes more than its payload. -/
theorem State.buildFrame_frameSize (hpayload : payload.length ≤ maxPayload) :
    (s.buildFrame (frameCovered type id field payload)).regs.flen.toNat = payload.length + 9 := by
  have hcap : (frameCovered type id field payload).length + 4 ≤ fbCap := by
    simp only [frameCovered_length, maxPayload, fbCap] at *
    omega
  rw [State.buildFrame_flen_toNat _ _ hcap, frameCovered_length]

/-- The CRC that CHECK computes of a built frame is the one in its trailer, and CRCCALC already holds it. -/
theorem State.buildFrame_checksum :
    crc32 s.cfg.crc ((s.buildFrame (frameCovered type id field payload)).fbBytes 0 (payload.length + 9 - 4)) =
      crc32 s.cfg.crc (frameCovered type id field payload) := by
  rw [s.buildFrame_fbBytes_of_length (by rw [frameCovered_length]; rfl)]

/-- Of a built frame's four conditions only the one on the length field is open. -/
theorem State.buildFrame_validFrame (htype : type.toNat ≤ 2) (hpayload : payload.length ≤ maxPayload)
    (hfield : field.toNat = payload.length) :
    (s.buildFrame (frameCovered type id field payload)).ValidFrame := by
  have hsize := s.buildFrame_frameSize type id field payload hpayload
  refine ⟨by omega, ?_, ?_, ?_⟩
  · rwa [State.buildFrame_typeByte]
  · rw [State.buildFrame_frameLength, hsize, hfield]
  · rw [hsize, State.buildFrame_cfg, s.buildFrame_checksum]
    have htrailer := s.buildFrame_frameTrailer (frameCovered type id field payload)
    rw [frameCovered_length] at htrailer
    exact htrailer.symm

end

/-! ### CLASSIFY on a valid frame -/

/-- CLASSIFY reaches the dispatch stage on a valid frame whether it validates or not; CRCCALC is all that differs. -/
theorem exec_classify_of_validFrame {s : State} (hhalt : s.halt = false) (hvalid : s.ValidFrame) :
    ∃ c, exec .classify s = dispatch { s with regs.crccalc := c } := by
  by_cases hchken : s.chken = true
  · exact ⟨_, exec_classify_accepted (by simp [hhalt]) hchken (State.validate_of_validFrame hvalid)⟩
  · exact ⟨s.regs.crccalc, exec_classify_unchecked (by simp [hhalt]) hchken⟩

section
variable {s : State}

theorem dispatch_of_data (htype : (s.fbByte 0).toNat = 0) (hsize : 5 + s.frameLength.toNat ≤ s.regs.flen.toNat) :
    dispatch s = .next (State.done
      { ({ s with regs.rtype := s.fbByte 0 } : State).deliverPayload (s.fbBytes 5 s.frameLength.toNat) with
        regs.rid := s.frameId, regs.evt := evtData }) := by
  have hmax : ¬ maxPayload < (s.fbBytes 5 s.frameLength.toNat).length := by
    have := s.frameLength.isLt
    rw [State.length_fbBytes]
    simp only [maxPayload]
    omega
  rw [dispatch, if_neg (by omega), State.decodeFrame_frameBytes s (by omega), if_pos htype, if_pos hsize, runFrame,
    execData, if_neg hmax]

theorem dispatch_of_ack (htype : (s.fbByte 0).toNat = 1) (hsize : 3 ≤ s.regs.flen.toNat) :
    dispatch s = .next (State.done { s with regs.rtype := s.fbByte 0, regs.rid := s.frameId, regs.evt := evtAck }) := by
  rw [dispatch, if_neg (by omega), State.decodeFrame_frameBytes s (by omega), if_neg (by omega), if_pos htype,
    if_pos hsize]
  rfl

theorem dispatch_of_nack (htype : (s.fbByte 0).toNat = 2) (hsize : 5 ≤ s.regs.flen.toNat) :
    dispatch s = .next (State.done
      { s with regs.rtype := s.fbByte 0, regs.rid := s.frameId, regs.rstatus := s.frameLength, regs.evt := evtNack }) := by
  rw [dispatch, if_neg (by omega), State.decodeFrame_frameBytes s (by omega), if_neg (by omega), if_neg (by omega),
    if_pos htype, if_pos hsize]
  rfl

end

theorem State.event_of_evtData {s : State} (h : s.regs.evt = evtData) :
    s.evtAckreq = true ∧ s.evtValid = true ∧ s.evtKind = 0#2 := by
  rw [State.evtAckreq, State.evtValid, State.evtKind, h]
  decide

/-- A valid frame of kind DATA is reported whole: event, id and payload. -/
theorem exec_classify_reports_data {s : State} (hhalt : s.halt = false) (hvalid : s.ValidFrame)
    (htype : s.fbByte 0 = 0#8) :
    ∃ t, exec .classify s = .next t ∧ t.regs.err = 0#8 ∧ t.regs.evt = evtData ∧ t.regs.status = s.regs.status ∧
      t.regs.rid = s.frameId ∧ t.regs.plen = BitVec.ofNat 17 s.frameLength.toNat ∧
      ∀ i, i < s.frameLength.toNat → t.pbByte i = s.fbByte (5 + i) := by
  obtain ⟨c, hclassify⟩ := exec_classify_of_validFrame hhalt hvalid
  obtain ⟨-, -, hlength, -⟩ := hvalid
  have hdispatch := dispatch_of_data (s := { s with regs.crccalc := c }) (congrArg BitVec.toNat htype)
    (show 5 + s.frameLength.toNat ≤ s.regs.flen.toNat by omega)
  obtain ⟨hregs, hbytes, -⟩ := dispatch_data_delivers (s := { s with regs.crccalc := c }) htype rfl
  exact ⟨_, hclassify.trans hdispatch, rfl, rfl, rfl, rfl, congrArg Registers.plen hregs, hbytes⟩

/-! ### Round trips of DATA frames -/

/-- The DATA frame that ENC_DATA builds of TXID, PLEN and PB (41_encode.md R130). -/
def State.builtData (s : State) : State :=
  s.buildFrame (frameCovered 0x00#8 s.regs.txid (BitVec.ofNat 16 s.regs.plen.toNat) (s.pbBytes 0 s.regs.plen.toNat))

section
variable {s : State}

theorem State.builtData_frameLength (h : s.regs.plen.toNat ≤ 65535) :
    s.builtData.frameLength.toNat = s.regs.plen.toNat := by
  rw [State.builtData, State.buildFrame_frameLength, BitVec.toNat_ofNat]
  omega

theorem State.builtData_flen (h : s.regs.plen.toNat ≤ 65535) :
    s.builtData.regs.flen.toNat = s.regs.plen.toNat + 9 := by
  rw [State.builtData, State.buildFrame_frameSize _ _ _ _ _ (by rwa [State.length_pbBytes]), State.length_pbBytes]

theorem State.builtData_validFrame (h : s.regs.plen.toNat ≤ 65535) : s.builtData.ValidFrame := by
  refine s.buildFrame_validFrame _ _ _ _ (by decide) (by rwa [State.length_pbBytes]) ?_
  rw [State.length_pbBytes, BitVec.toNat_ofNat]
  omega

/-- The payload stands behind the header, byte by byte as PB held it. -/
theorem State.builtData_payload {i : Nat} (hi : i < s.regs.plen.toNat) : s.builtData.fbByte (5 + i) = s.pbByte i := by
  rw [State.builtData, s.buildFrame_payload _ _ _ _ (by rwa [State.length_pbBytes]), State.getElem_pbBytes,
    Nat.zero_add]

theorem State.ofNat_plen {field : Half} (hfield : field.toNat = s.regs.plen.toNat) :
    BitVec.ofNat 17 field.toNat = s.regs.plen := by
  rw [hfield, BitVec.ofNat_toNat, BitVec.setWidth_eq]

/-- CHECK of a built DATA frame finds the CRC that building it left in CRCCALC. -/
theorem State.builtData_crccalc (h : s.regs.plen.toNat ≤ 65535) :
    crc32 s.builtData.cfg.crc (s.builtData.fbBytes 0 (s.builtData.regs.flen.toNat - 4)) = s.builtData.regs.crccalc := by
  have hlength : (s.pbBytes 0 s.regs.plen.toNat).length = s.regs.plen.toNat := s.length_pbBytes 0 _
  have hsum := s.buildFrame_checksum 0x00#8 s.regs.txid (BitVec.ofNat 16 s.regs.plen.toNat) (s.pbBytes 0 s.regs.plen.toNat)
  rw [hlength] at hsum
  rw [State.builtData_flen h]
  exact hsum

end

/-- The same block with other contents in PB and another PLEN. -/
def State.withPb (s : State) (pb : Memory) (plen : Length) : State := { s with pb := pb, regs.plen := plen }

/-- The decoders and the validator do not look at PB: another PB leaves the frame's fields as they are. -/
theorem State.withPb_frame (s : State) (pb : Memory) (plen : Length) :
    (s.withPb pb plen).regs.flen = s.regs.flen ∧ (s.withPb pb plen).frameLength = s.frameLength ∧
      (∀ x, (s.withPb pb plen).fbByte x = s.fbByte x) ∧ ((s.withPb pb plen).ValidFrame ↔ s.ValidFrame) :=
  ⟨rfl, rfl, fun _ => rfl, Iff.rfl⟩

/-- Settles O6: the built frame is valid, and its type, id, length field and payload are where the decoders read them. -/
theorem dataFrameRoundTrip : Obligations.DataFrameRoundTrip := by
  intro s hfits
  have hsize := State.builtData_flen hfits
  have hlength := State.builtData_frameLength hfits
  refine ⟨s.builtData, exec_encData_fits hfits, hsize,
    ⟨_, exec_check_of_validFrame (State.builtData_validFrame hfits), rfl, State.builtData_crccalc hfits⟩,
    ⟨_, exec_decType_reads (by omega), rfl, s.buildFrame_typeByte _ _ _ _⟩,
    ⟨_, exec_decId_reads (by omega), rfl, s.buildFrame_frameId _ _ _ _⟩, fun pb plen => ?payload⟩
  obtain ⟨hflen', hlength', hbyte', -⟩ := s.builtData.withPb_frame pb plen
  rw [← hflen'] at hsize
  rw [← hlength'] at hlength
  refine ⟨_, exec_decPayload_copies (s := s.builtData.withPb pb plen) (by omega) (by omega), rfl, ?plen, fun i hi => ?bytes⟩
  case plen => rw [State.done_plen, State.deliverPayload_plen, State.length_fbBytes, State.ofNat_plen hlength]
  case bytes =>
    rw [State.done_pbByte, State.deliverPayload_fbBytes_inside _ _ (by omega), hbyte']
    exact State.builtData_payload hi

/-- Settles O8: the built frame is valid and of kind DATA, so CLASSIFY reports it with the fields it was built of. -/
theorem encodedDataFrameIsClassified : Obligations.EncodedDataFrameIsClassified := by
  intro s hfits hhalt
  refine ⟨s.builtData, exec_encData_fits hfits, fun pb plen => ?_⟩
  have hlength := State.builtData_frameLength hfits
  obtain ⟨-, hlength', hbyte', hvalid'⟩ := s.builtData.withPb_frame pb plen
  obtain ⟨u, hexec, herr, hevt, hstatus, hrid, hplen, hbytes⟩ :=
    exec_classify_reports_data (s := s.builtData.withPb pb plen) hhalt (hvalid'.mpr (State.builtData_validFrame hfits))
      (s.buildFrame_typeByte _ _ _ _)
  rw [hlength'] at hplen hbytes
  obtain ⟨hackreq, hvalid, hkind⟩ := State.event_of_evtData hevt
  refine ⟨u, hexec, herr, hvalid, hackreq, hkind, (State.halt_eq_of_status hstatus).trans hhalt,
    hrid.trans (s.buildFrame_frameId _ _ _ _), hplen.trans (State.ofNat_plen hlength), fun i hi => ?_⟩
  rw [hbytes i (by omega), hbyte']
  exact State.builtData_payload hi

/-! ### Round trips of ACK and NACK frames -/

theorem exec_encAck (s : State) : exec .encAck s = .next (s.buildFrame (frameCovered 0x01#8 s.regs.txid 0#16 [])) := rfl

/-- What the length field of a built NACK holds, as a number: the status's low byte, as the field's low byte at offset 4 and as its high byte at offset 3 (30_encoding.md R94). -/
def nackField (offset : NackStatusOffset) (status : Word) : Nat :=
  if offset = .four then status.toNat % 256 else status.toNat % 256 * 256

section
variable (offset : NackStatusOffset) (status : Word)

theorem nackField_lt : nackField offset status < 2 ^ 16 := by
  unfold nackField
  split <;> omega

theorem nackField_eq_zero : nackField offset status = 0 ↔ status.toNat % 256 = 0 := by
  unfold nackField
  split <;> omega

theorem nackField_congr {offset : NackStatusOffset} {x y : Word} (h : x.toNat % 256 = y.toNat % 256) :
    nackField offset x = nackField offset y := by
  rw [nackField, nackField, h]

theorem toNat_nackField : (BitVec.ofNat 16 (nackField offset status)).toNat = nackField offset status := by
  rw [BitVec.toNat_ofNat, Nat.mod_eq_of_lt (nackField_lt offset status)]

theorem nackHeader_nackField (id : Half) :
    nackHeader offset id status = frameCovered 0x02#8 id (BitVec.ofNat 16 (nackField offset status)) [] := by
  obtain ⟨field, hheader, hfour, hthree⟩ := nackHeader_lengthField offset id status
  have hfield : field.toNat = nackField offset status := by
    cases offset with
    | four => exact hfour rfl
    | three => exact hthree rfl
  rw [hheader, ← hfield, BitVec.ofNat_toNat, BitVec.setWidth_eq]

end

/-- The NACK frame that ENC_NACK builds of TXID and TXSTATUS (41_encode.md R133). -/
def State.builtNack (s : State) : State :=
  s.buildFrame (frameCovered 0x02#8 s.regs.txid
    (BitVec.ofNat 16 (nackField s.cfg.nackStatusOffset s.regs.txstatus)) [])

section
variable (s : State)

theorem exec_encNack : exec .encNack s = .next s.builtNack := by
  rw [State.builtNack, ← nackHeader_nackField]
  rfl

theorem State.builtNack_frameLength :
    s.builtNack.frameLength = BitVec.ofNat 16 (nackField s.cfg.nackStatusOffset s.regs.txstatus) :=
  s.buildFrame_frameLength _ _ _ _

theorem State.builtNack_typeByte : s.builtNack.fbByte 0 = 2#8 := s.buildFrame_typeByte _ _ _ _

theorem State.builtNack_flen : s.builtNack.regs.flen.toNat = 9 := rfl

/-- The trailer of a built NACK is right whatever its status. -/
theorem State.builtNack_trailer : s.builtNack.frameTrailer 9 = crc32 s.cfg.crc (s.builtNack.fbBytes 0 5) :=
  (s.buildFrame_frameTrailer _).trans (s.buildFrame_checksum 0x02#8 _ _ []).symm

/-- CHECK takes a NACK's status for the length of a payload that is not there, and accepts it only when it is 0. -/
theorem exec_check_builtNack : ∃ u, exec .check s.builtNack = .next u ∧
    u.regs.err = if s.regs.txstatus.toNat % 256 = 0 then 0#8 else 3#8 := by
  by_cases hlow : s.regs.txstatus.toNat % 256 = 0
  · have hfield : (BitVec.ofNat 16 (nackField s.cfg.nackStatusOffset s.regs.txstatus)).toNat = 0 := by
      rw [toNat_nackField, nackField_eq_zero, hlow]
    exact ⟨_, exec_check_of_validFrame (s.buildFrame_validFrame _ _ _ _ (by decide) (Nat.zero_le _) hfield),
      by rw [if_pos hlow]; rfl⟩
  · have hlength : s.builtNack.frameLength.toNat + 9 ≠ s.builtNack.regs.flen.toNat := by
      rw [State.builtNack_frameLength, State.builtNack_flen, toNat_nackField]
      have := (nackField_eq_zero s.cfg.nackStatusOffset s.regs.txstatus).not.mpr hlow
      omega
    have htype : (s.builtNack.fbByte 0).toNat ≤ 2 := by
      rw [State.builtNack_typeByte]
      decide
    exact ⟨_, exec_check_of_validate (State.validate_of_badLength s.builtNack_flen.ge htype hlength),
      by rw [if_neg hlow]; rfl⟩

end

/-- Settles O4: the length field holds `nackField`, which DEC_STATUS reads, CHECK compares with the empty payload, and only the status's low byte decides. -/
theorem nackStatusLowByteTravels : Obligations.NackStatusLowByteTravels := by
  intro s
  refine ⟨s.builtNack, exec_encNack s, ⟨_, exec_decStatus_reads (by rw [s.builtNack_flen]; decide), rfl, ?status⟩,
    exec_check_builtNack s, s.builtNack_trailer, fun x hx => ?others⟩
  case status =>
    rw [State.done_rstatus, State.builtNack_frameLength, toNat_nackField]
    rfl
  case others =>
    rw [exec_encNack, State.builtNack, State.builtNack, ← nackField_congr hx]
    rfl

/-- Settles O7: an ACK is valid, a NACK only with a status whose low byte is 0, and type and id are where the decoders read them. -/
theorem ackAndNackFramesRoundTrip : Obligations.AckAndNackFramesRoundTrip := by
  intro s
  constructor
  · have hvalid : (s.buildFrame (frameCovered 0x01#8 s.regs.txid 0#16 [])).ValidFrame :=
      s.buildFrame_validFrame _ _ _ _ (by decide) (Nat.zero_le _) rfl
    obtain ⟨hmin, -⟩ := id hvalid
    exact ⟨_, exec_encAck s, rfl, ⟨_, exec_check_of_validFrame hvalid, rfl⟩,
      ⟨_, exec_decType_reads (by omega), rfl, s.buildFrame_typeByte _ _ _ _⟩,
      ⟨_, exec_decId_reads (by omega), rfl, s.buildFrame_frameId _ _ _ _⟩⟩
  · have hsize := s.builtNack_flen
    obtain ⟨u, hcheck, herr⟩ := exec_check_builtNack s
    refine ⟨_, exec_encNack s, rfl, ⟨u, hcheck, ?_⟩,
      ⟨_, exec_decType_reads (by omega), rfl, s.builtNack_typeByte⟩,
      ⟨_, exec_decId_reads (by omega), rfl, s.buildFrame_frameId _ _ _ _⟩⟩
    rw [herr]
    split <;> simp [*]

/-! ### The encoder commands and the encoder of frames -/

/-- A frame built in FB is the frame that its covered bytes and their CRC make. -/
theorem State.buildFrame_fbBytes_flen (s : State) {covered : List Byte} (h : covered.length + 4 ≤ fbCap) :
    (s.buildFrame covered).fbBytes 0 (s.buildFrame covered).regs.flen.toNat = withTrailer s.cfg.crc covered := by
  rw [State.buildFrame_flen_toNat s covered h, State.buildFrame_fbBytes_whole]

/-- Settles O5: each encoder command builds from the covered bytes that the encoder of frames takes for its kind. -/
theorem encodersBuildTheEncodedFrame : Obligations.EncodersBuildTheEncodedFrame := by
  intro s
  refine ⟨fun hfits => ⟨_, exec_encData_fits hfits, ?data⟩, ⟨_, exec_encAck s, ?ack⟩, ⟨_, exec_encNack s, ?nack⟩⟩
  case data =>
    have hcap : (frameCovered 0x00#8 s.regs.txid (BitVec.ofNat 16 s.regs.plen.toNat)
        (s.pbBytes 0 s.regs.plen.toNat)).length + 4 ≤ fbCap := by
      rw [frameCovered_length, State.length_pbBytes]
      simp only [fbCap]
      omega
    rw [s.buildFrame_fbBytes_flen hcap, encode, State.length_pbBytes]
  case ack =>
    rw [s.buildFrame_fbBytes_flen (by rw [frameCovered_length]; decide), encode]
  case nack =>
    rw [State.builtNack, s.buildFrame_fbBytes_flen (by rw [frameCovered_length]; decide), encode, nackField]

end Sys2Proof.Machine

/-! What each instruction can do, said once, and what follows of it for every instruction: who writes FB and FLEN, the operand registers, EVT and STATUS, and which codes each command leaves in ERR (10_state.md section 9, 60_exceptions.md R250). -/

namespace Sys2Proof.Machine

/-! ### The ends of an instruction -/

/-- How CLASSIFY comes to its dispatch stage, in state `u`: with a valid frame and CRCCALC written, or unvalidated (44_classify.md R161). -/
def Passes (s u : State) : Prop :=
  (s.chken = true ∧ s.ValidFrame ∧
    u = { s with regs.crccalc := crc32 s.cfg.crc (s.fbBytes 0 (s.regs.flen.toNat - 4)) }) ∨
  (s.chken = false ∧ u = s)

/-- Every way an instruction run from `s` can end in a next state, with the condition under which it does. -/
inductive Ran (s : State) : Instr → State → Prop where
  | encDataTooLong (h : 65535 < s.regs.plen.toNat) : Ran s .encData (s.fail .payloadTooLong)
  | encData (h : s.regs.plen.toNat ≤ 65535) : Ran s .encData s.builtData
  | encAck : Ran s .encAck (s.buildFrame (frameCovered 0x01#8 s.regs.txid 0#16 []))
  | encNack : Ran s .encNack s.builtNack
  | decTypeTruncated (h : s.regs.flen.toNat < 1) : Ran s .decType (s.fail .truncated)
  | decType (h : 1 ≤ s.regs.flen.toNat) : Ran s .decType (State.done { s with regs.rtype := s.fbByte 0 })
  | decIdTruncated (h : s.regs.flen.toNat < 3) : Ran s .decId (s.fail .truncated)
  | decId (h : 3 ≤ s.regs.flen.toNat) : Ran s .decId (State.done { s with regs.rid := s.frameId })
  | decPayloadTruncated (h : s.regs.flen.toNat < 5 ∨ s.regs.flen.toNat < 5 + s.frameLength.toNat) :
      Ran s .decPayload (s.fail .truncated)
  | decPayload (hheader : 5 ≤ s.regs.flen.toNat) (hpayload : 5 + s.frameLength.toNat ≤ s.regs.flen.toNat) :
      Ran s .decPayload (s.deliverPayload (s.fbBytes 5 s.frameLength.toNat)).done
  | decStatusTruncated (h : s.regs.flen.toNat < 5) : Ran s .decStatus (s.fail .truncated)
  | decStatus (h : 5 ≤ s.regs.flen.toNat) : Ran s .decStatus (State.done { s with regs.rstatus := s.frameLength })
  | check : Ran s .check (s.validate.2.fail s.validate.1)
  | classifyHalted (hhalt : s.halt = true) : Ran s .classify (s.rejectFrame .halted)
  | classifyRejected (hhalt : s.halt = false) (hchken : s.chken = true) (hfailed : s.validate.1 ≠ .ok) :
      Ran s .classify (s.validate.2.rejectFrame s.validate.1)
  | classifyDispatched {u t : State} (hhalt : s.halt = false) (hpasses : Passes s u) (hdispatch : dispatch u = .next t) :
      Ran s .classify t
  | srst : Ran s .srst s.resetRegisters
  | data {id : Half} {payload : List Byte} (h : payload.length ≤ 65535) :
      Ran s (.data id payload) (State.done { s.deliverPayload payload with regs.rid := id, regs.evt := evtData })
  | ack {id : Half} : Ran s (.ack id) (State.done { s with regs.rid := id, regs.evt := evtAck })
  | nack {id status : Half} :
      Ran s (.nack id status) (State.done { s with regs.rid := id, regs.rstatus := status, regs.evt := evtNack })

theorem exec_data_fits {s : State} {id : Half} {payload : List Byte} (h : payload.length ≤ 65535) :
    exec (.data id payload) s =
      .next (State.done { s.deliverPayload payload with regs.rid := id, regs.evt := evtData }) := by
  simp only [exec, execData, if_neg (not_lt.mpr h)]

theorem exec_data_tooLong {s : State} {id : Half} {payload : List Byte} (h : 65535 < payload.length) :
    exec (.data id payload) s = .refused .payloadExceedsField := by
  simp only [exec, execData, if_pos h]

/-- CLASSIFY's four ways, the last two as one: past the halt gate and the validation stage it dispatches. -/
theorem exec_classify_ran {s t : State} (h : exec .classify s = .next t) : Ran s .classify t := by
  rw [exec] at h
  rcases execClassify_cases s with ⟨hhalt, hc⟩ | ⟨hhalt, hchken, hfailed, hc⟩ | ⟨hhalt, hchken, hok, hc⟩ |
    ⟨hhalt, hchken, hc⟩ <;> rw [hc] at h
  · cases h
    exact .classifyHalted hhalt
  · cases h
    exact .classifyRejected hhalt hchken hfailed
  · have hvalid := State.validFrame_of_validate hok
    rw [State.validate_of_validFrame hvalid] at h
    exact .classifyDispatched hhalt (.inl ⟨hchken, hvalid, rfl⟩) h
  · exact .classifyDispatched hhalt (.inr ⟨hchken, rfl⟩) h

/-- An instruction that answers a next state ended in one of its ways. -/
theorem exec_ran {i : Instr} {s t : State} (h : exec i s = .next t) : Ran s i t := by
  cases i with
  | encData =>
    rcases lt_or_ge 65535 s.regs.plen.toNat with hlong | hfits
    · rw [exec_encData_tooLong hlong] at h
      cases h
      exact .encDataTooLong hlong
    · rw [exec_encData_fits hfits] at h
      cases h
      exact .encData hfits
  | encAck => cases h; exact .encAck
  | encNack =>
    rw [exec_encNack] at h
    cases h
    exact .encNack
  | decType =>
    rcases lt_or_ge s.regs.flen.toNat 1 with hshort | hthere
    · rw [exec_decType_truncated hshort] at h
      cases h
      exact .decTypeTruncated hshort
    · rw [exec_decType_reads hthere] at h
      cases h
      exact .decType hthere
  | decId =>
    rcases lt_or_ge s.regs.flen.toNat 3 with hshort | hthere
    · rw [exec_decId_truncated hshort] at h
      cases h
      exact .decIdTruncated hshort
    · rw [exec_decId_reads hthere] at h
      cases h
      exact .decId hthere
  | decPayload =>
    by_cases hshort : s.regs.flen.toNat < 5 ∨ s.regs.flen.toNat < 5 + s.frameLength.toNat
    · rw [exec_decPayload_truncated hshort] at h
      cases h
      exact .decPayloadTruncated hshort
    · rw [exec_decPayload_copies (by omega) (by omega)] at h
      cases h
      exact .decPayload (by omega) (by omega)
  | decStatus =>
    rcases lt_or_ge s.regs.flen.toNat 5 with hshort | hthere
    · rw [exec_decStatus_truncated hshort] at h
      cases h
      exact .decStatusTruncated hshort
    · rw [exec_decStatus_reads hthere] at h
      cases h
      exact .decStatus hthere
  | check => cases h; exact .check
  | classify => exact exec_classify_ran h
  | srst => cases h; exact .srst
  | data id payload =>
    rcases lt_or_ge 65535 payload.length with hlong | hfits
    · rw [exec_data_tooLong hlong] at h
      cases h
    · rw [exec_data_fits hfits] at h
      cases h
      exact .data hfits
  | ack id => cases h; exact .ack
  | nack id status => cases h; exact .nack

/-! ### What the stages of CHECK and CLASSIFY leave alone -/

/-- CHECK's tests write CRCCALC alone. -/
theorem State.validate_keeps (s : State) :
    s.validate.2 = { s with regs.crccalc := s.validate.2.regs.crccalc } := by
  rcases s.validate_snd with h | h <;> rw [h]

theorem Passes.keeps {s u : State} (h : Passes s u) : u = { s with regs.crccalc := u.regs.crccalc } := by
  rcases h with ⟨_, _, rfl⟩ | ⟨_, rfl⟩ <;> rfl

/-- The dispatch stage writes no byte of FB and, of the registers, the results of CLASSIFY and STATUS. -/
theorem dispatch_keeps {s t : State} (h : dispatch s = .next t) :
    t.fb = s.fb ∧ t.regs = { s.regs with
      status := t.regs.status, err := t.regs.err, evt := t.regs.evt, rtype := t.regs.rtype, rid := t.regs.rid
      rstatus := t.regs.rstatus, plen := t.regs.plen } := by
  rcases dispatch_outcomes s with ⟨_, hd⟩ | ⟨_, _, _, hd⟩ | ⟨_, _, _, hd⟩ | ⟨_, _, _, hd⟩ | ⟨_, _, hd⟩ | ⟨_, _, hd⟩ <;>
    rw [hd] at h <;> cases h
  case inr.inl | inr.inr.inl | inr.inr.inr.inl => exact ⟨rfl, rfl⟩
  all_goals
    rw [State.dispatchFail_eq]
    exact ⟨rfl, rfl⟩

/-- CLASSIFY writes no byte of FB and, of the registers, its results, CRCCALC and STATUS. -/
theorem exec_classify_keeps {s t : State} (h : exec .classify s = .next t) :
    t.fb = s.fb ∧ t.regs = { s.regs with
      status := t.regs.status, err := t.regs.err, evt := t.regs.evt, rtype := t.regs.rtype, rid := t.regs.rid
      rstatus := t.regs.rstatus, crccalc := t.regs.crccalc, plen := t.regs.plen } := by
  cases exec_classify_ran h with
  | classifyHalted => exact ⟨rfl, rfl⟩
  | classifyRejected =>
    rw [s.validate_keeps]
    exact ⟨rfl, rfl⟩
  | classifyDispatched _ hpasses hdispatch =>
    obtain ⟨hfb, hregs⟩ := dispatch_keeps hdispatch
    rw [hpasses.keeps] at hfb hregs
    rw [hregs]
    exact ⟨hfb, rfl⟩

/-! ### Who writes what -/

/-- An instruction builds a frame, being an encoder, or leaves FB as it is. -/
theorem exec_fb {i : Instr} {s t : State} (h : exec i s = .next t) :
    (i ∈ [Instr.encData, .encAck, .encNack] ∧ ∃ covered, t = s.buildFrame covered) ∨ t.fb = s.fb := by
  cases exec_ran h with
  | encData | encAck | encNack => exact .inl ⟨by simp, _, rfl⟩
  | check =>
    right
    rw [s.validate_keeps]
    rfl
  | classifyHalted | classifyRejected | classifyDispatched => exact .inr (exec_classify_keeps h).1
  | _ => exact .inr rfl

theorem exec_flen {i : Instr} {s t : State} (h : exec i s = .next t) (hencoder : i ∉ [Instr.encData, .encAck, .encNack])
    (hsrst : i ≠ .srst) : t.regs.flen = s.regs.flen := by
  cases exec_ran h with
  | encData | encAck | encNack => exact absurd (by simp) hencoder
  | srst => exact absurd rfl hsrst
  | check =>
    rw [s.validate_keeps]
    rfl
  | classifyHalted | classifyRejected | classifyDispatched => rw [(exec_classify_keeps h).2]
  | _ => rfl

/-- Settles O9: an instruction that leaves FB's written bytes and `epoch` as they are leaves every byte as it reads. -/
theorem onlyEncodersWriteTheFrameBuffer : Obligations.OnlyEncodersWriteTheFrameBuffer := by
  intro i s t hdata hack hnack h
  have hencoder : i ∉ [Instr.encData, .encAck, .encNack] := by simp [hdata, hack, hnack]
  refine ⟨fun a _ => ?_, exec_flen h hencoder⟩
  obtain ⟨-, hepoch, -⟩ := exec_sameWorld h
  have hfb : t.fb = s.fb := (exec_fb h).resolve_left fun hbuilt => hencoder hbuilt.1
  rw [State.fbByte, State.fbByte, hfb, hepoch]

/-- Settles O28: of the ends an instruction can have only `resetRegisters` writes an operand register. -/
theorem operandRegistersAreHostOnly : Obligations.OperandRegistersAreHostOnly := by
  intro i s t hsrst h
  cases exec_ran h with
  | srst => exact absurd rfl hsrst
  | check =>
    rw [s.validate_keeps]
    exact ⟨rfl, rfl, rfl⟩
  | classifyHalted | classifyRejected | classifyDispatched =>
    rw [(exec_classify_keeps h).2]
    exact ⟨rfl, rfl, rfl⟩
  | _ => exact ⟨rfl, rfl, rfl⟩

/-- Settles O27: no end of the eight commands writes EVT or STATUS. -/
theorem eventsComeOnlyFromClassify : Obligations.EventsComeOnlyFromClassify := by
  intro i s t hi h
  cases exec_ran h with
  | check =>
    rw [s.validate_keeps]
    exact ⟨rfl, rfl⟩
  | classifyHalted | classifyRejected | classifyDispatched | srst | data | ack | nack => simp at hi
  | _ => exact ⟨rfl, rfl⟩

/-! ### The result codes (60_exceptions.md R250) -/

/-- CHECK's tests answer E_OK or one of the four codes of the validator. -/
theorem State.validate_code (s : State) : s.validate.1.code ∈ [0#8, 1#8, 2#8, 3#8, 4#8] := by
  rcases s.validate_cases with ⟨_, hv⟩ | ⟨_, _, hv⟩ | ⟨_, _, _, hv⟩ | ⟨_, _, _, _, hv⟩ | ⟨_, _, _, _, hv⟩ <;>
    rw [hv] <;> dsimp only <;> decide

/-- A valid frame passes the dispatch stage (44_classify.md R164). -/
theorem dispatch_of_validFrame {s t : State} (h : dispatch s = .next t) (hvalid : s.ValidFrame) :
    t.regs.err = 0#8 ∧ t.regs.status = s.regs.status :=
  (dispatch_ends h).resolve_right fun ⟨hinvalid, _⟩ => hinvalid hvalid

/-- With CHKEN 1 a CLASSIFY answers E_OK, E_HALTED or one of the validator's codes, and keeps STATUS. -/
theorem exec_classify_checked {s t : State} (h : exec .classify s = .next t) (hchken : s.chken = true) :
    t.regs.err ∈ [0#8, 1#8, 2#8, 3#8, 4#8, 8#8] ∧ t.regs.status = s.regs.status := by
  cases exec_classify_ran h with
  | classifyHalted => exact ⟨by rw [State.rejectFrame_err]; decide, rfl⟩
  | classifyRejected =>
    constructor
    · rw [State.rejectFrame_err]
      exact List.mem_append_left [8#8] s.validate_code
    · rw [s.validate_keeps]
      rfl
  | classifyDispatched _ hpasses hdispatch =>
    rcases hpasses with ⟨_, hvalid, rfl⟩ | ⟨hunchecked, _⟩
    · obtain ⟨herr, hstatus⟩ := dispatch_of_validFrame hdispatch hvalid
      exact ⟨by rw [herr]; decide, hstatus⟩
    · rw [hchken] at hunchecked
      cases hunchecked

/-- With CHKEN 0 a CLASSIFY answers E_OK, E_HALTED or one of the dispatch stage's codes. -/
theorem exec_classify_unchecked_err {s t : State} (h : exec .classify s = .next t) (hchken : s.chken = false) :
    t.regs.err ∈ [0#8, 5#8, 7#8, 8#8] := by
  cases exec_classify_ran h with
  | classifyHalted =>
    rw [State.rejectFrame_err]
    decide
  | classifyRejected _ hchecked =>
    rw [hchken] at hchecked
    cases hchecked
  | classifyDispatched _ _ hdispatch =>
    rcases dispatch_ends hdispatch with ⟨herr, _⟩ | ⟨_, e, he, rfl⟩
    · rw [herr]
      decide
    · rw [State.dispatchFail_err]
      rcases he with rfl | rfl <;> decide

/-- Settles O30: each end of a command carries its code. -/
theorem resultCodesByCommand : Obligations.ResultCodesByCommand := by
  intro i s t h
  refine ⟨?encData, ?others, ?decoders, ?check, ?checked, ?unchecked⟩
  case encData =>
    rintro rfl
    cases exec_ran h with
    | encDataTooLong =>
      rw [State.fail_err]
      decide
    | encData =>
      rw [State.builtData, State.buildFrame_err]
      decide
  case others =>
    intro hi
    cases exec_ran h with
    | encAck | encNack | srst => rfl
    | _ => simp at hi
  case decoders =>
    intro hi
    cases exec_ran h with
    | decTypeTruncated | decIdTruncated | decPayloadTruncated | decStatusTruncated =>
      rw [State.fail_err]
      decide
    | decType | decId | decPayload | decStatus =>
      rw [State.done_err]
      decide
    | _ => simp at hi
  case check =>
    rintro rfl
    cases exec_ran h with
    | check => exact s.validate_code
  case checked =>
    rintro rfl hchken
    exact (exec_classify_checked h hchken).1
  case unchecked =>
    rintro rfl hchken
    exact exec_classify_unchecked_err h hchken

end Sys2Proof.Machine

/-! The validator and the classifier run twice, and against each other: CHECK repeats its answer, CLASSIFY's validation stage is CHECK, and CLASSIFY reports again what it has reported (43_check.md, corner cases; 44_classify.md R161, R164, R168). -/

namespace Sys2Proof.Machine

/-! ### CHECK -/

/-- Settles O16: the state a verdict leaves still meets that verdict's conditions, none of which reads ERR or CRCCALC. -/
theorem checkRepeatsItsAnswer : Obligations.CheckRepeatsItsAnswer := by
  intro s t h
  rw [exec, execCheck_eq] at h
  cases h
  rcases s.validate_cases with ⟨hshort, hv⟩ | ⟨hmin, htype, hv⟩ | ⟨hmin, htype, hlength, hv⟩ |
    ⟨hmin, htype, hlength, hsum, hv⟩ | ⟨hmin, htype, hlength, hsum, hv⟩ <;> rw [hv]
  · exact (exec_check_of_validate (State.validate_of_short (s := s.fail .tooShort) hshort) :)
  · exact (exec_check_of_validate (State.validate_of_badType (s := s.fail .badType) hmin htype) :)
  · exact (exec_check_of_validate (State.validate_of_badLength (s := s.fail .lengthMismatch) hmin htype hlength) :)
  · exact (exec_check_of_validate (State.validate_of_badSum (s := State.fail .checksumMismatch
      { s with regs.crccalc := crc32 s.cfg.crc (s.fbBytes 0 (s.regs.flen.toNat - 4)) }) hmin htype hlength hsum) :)
  · exact (exec_check_of_validFrame (s := State.fail .ok
      { s with regs.crccalc := crc32 s.cfg.crc (s.fbBytes 0 (s.regs.flen.toNat - 4)) }) ⟨hmin, htype, hlength, hsum⟩ :)

/-! ### CLASSIFY and CHECK -/

/-- The three ways the dispatch stage reports a frame, each a kind whose fields are all there (44_classify.md R163). -/
inductive Reported (s : State) : State → Prop where
  | data (htype : (s.fbByte 0).toNat = 0) (hsize : 5 + s.frameLength.toNat ≤ s.regs.flen.toNat) :
      Reported s (State.done
        { ({ s with regs.rtype := s.fbByte 0 } : State).deliverPayload (s.fbBytes 5 s.frameLength.toNat) with
          regs.rid := s.frameId, regs.evt := evtData })
  | ack (htype : (s.fbByte 0).toNat = 1) (hsize : 3 ≤ s.regs.flen.toNat) :
      Reported s (State.done { s with regs.rtype := s.fbByte 0, regs.rid := s.frameId, regs.evt := evtAck })
  | nack (htype : (s.fbByte 0).toNat = 2) (hsize : 5 ≤ s.regs.flen.toNat) :
      Reported s (State.done
        { s with regs.rtype := s.fbByte 0, regs.rid := s.frameId, regs.rstatus := s.frameLength, regs.evt := evtNack })

theorem Reported.evt {s t : State} (h : Reported s t) :
    t.regs.evt = evtData ∨ t.regs.evt = evtAck ∨ t.regs.evt = evtNack := by
  cases h with
  | data => exact .inl rfl
  | ack => exact .inr (.inl rfl)
  | nack => exact .inr (.inr rfl)

theorem Reported.err {s t : State} (h : Reported s t) : t.regs.err = 0#8 := by
  cases h <;> rfl

theorem Reported.evtValid {s t : State} (h : Reported s t) : t.evtValid = true := by
  rw [State.evtValid]
  rcases h.evt with hevt | hevt | hevt <;> rw [hevt] <;> decide

/-- A reported frame's CRCCALC and STATUS are those the dispatch stage was given. -/
theorem Reported.keeps {s t : State} (h : Reported s t) :
    t.regs.crccalc = s.regs.crccalc ∧ t.regs.status = s.regs.status ∧ t.regs.ctrl = s.regs.ctrl := by
  cases h <;> exact ⟨rfl, rfl, rfl⟩

theorem State.evtValid_of_evtNone {s : State} (h : s.regs.evt = evtNone) : s.evtValid = false := by
  rw [State.evtValid, h]
  rfl

/-- The dispatch stage reports the frame, or fails and leaves no event. -/
theorem dispatch_reported {s t : State} (h : dispatch s = .next t) : Reported s t ∨ t.regs.evt = evtNone := by
  rcases dispatch_outcomes s with ⟨_, hd⟩ | ⟨_, htype, hsize, hd⟩ | ⟨_, htype, hsize, hd⟩ | ⟨_, htype, hsize, hd⟩ |
    ⟨_, _, hd⟩ | ⟨_, _, hd⟩ <;> rw [hd] at h <;> cases h
  · exact .inr (s.dispatchFail_evt _)
  · exact .inl (.data htype hsize)
  · exact .inl (.ack htype hsize)
  · exact .inl (.nack htype hsize)
  · exact .inr (State.dispatchFail_evt _ _)
  · exact .inr (State.dispatchFail_evt _ _)

theorem dispatch_total (s : State) : ∃ t, dispatch s = .next t := by
  obtain ⟨t, hd, -⟩ := dispatch_row s
  exact ⟨t, hd⟩

/-- A valid frame is of a known kind and holds that kind's fields, so it is reported. -/
theorem dispatch_reports_validFrame {s : State} (h : s.ValidFrame) : ∃ t, dispatch s = .next t ∧ Reported s t := by
  obtain ⟨hmin, htype, hlength, -⟩ := h
  obtain hdata | hack | hnack : (s.fbByte 0).toNat = 0 ∨ (s.fbByte 0).toNat = 1 ∨ (s.fbByte 0).toNat = 2 := by omega
  · exact ⟨_, dispatch_of_data hdata (by omega), .data hdata (by omega)⟩
  · exact ⟨_, dispatch_of_ack hack (by omega), .ack hack (by omega)⟩
  · exact ⟨_, dispatch_of_nack hnack (by omega), .nack hnack (by omega)⟩

theorem ErrCode.code_eq_zero {e : ErrCode} (h : e.code = 0#8) : e = .ok := by
  cases e with
  | ok => rfl
  | _ => exact absurd h (by decide)

/-- Settles O19: CLASSIFY and CHECK run the same tests; a verdict other than E_OK ends both, and a valid frame is reported with the CRC the tests wrote. -/
theorem classifyValidationIsCheck : Obligations.ClassifyValidationIsCheck := by
  intro s hhalt
  have hgate : ¬ s.halt = true := by simp [hhalt]
  refine ⟨fun hchken => ⟨_, execCheck_eq s, fun herr => ?rejected, fun herr => ?accepted⟩, fun hchken => ?skipped⟩
  case rejected =>
    rw [State.fail_err] at herr
    have hfailed : s.validate.1 ≠ .ok := fun hok => herr (by rw [hok]; rfl)
    rw [exec_classify_rejected hgate hchken rfl hfailed]
    rfl
  case accepted =>
    rw [State.fail_err] at herr
    have hok : s.validate.1 = .ok := ErrCode.code_eq_zero herr
    have hvalid : s.ValidFrame := State.validFrame_of_validate hok
    obtain ⟨t, hd, hreported⟩ := dispatch_reports_validFrame (s := s.validate.2) (by rw [s.validate_keeps]; exact hvalid)
    obtain ⟨hcrc, -, -⟩ := hreported.keeps
    exact ⟨t, (exec_classify_accepted hgate hchken (Prod.ext hok rfl)).trans hd, hreported.err, hreported.evtValid, hcrc⟩
  case skipped =>
    obtain ⟨t, hd⟩ := dispatch_total s
    obtain ⟨-, hregs⟩ := dispatch_keeps hd
    exact ⟨t, (exec_classify_unchecked hgate (by simp [hchken])).trans hd, by rw [hregs]⟩

theorem exec_classify_total (s : State) : ∃ t, exec .classify s = .next t := by
  obtain ⟨t, h, -⟩ := classifyOutcomes s _ _ _ _ _ _ rfl rfl rfl rfl rfl rfl
  exact ⟨t, h⟩

/-- Settles O20: the codes of the stage that was skipped, or cannot fail, are not among those CLASSIFY leaves. -/
theorem checkedClassifyNeverHalts : Obligations.CheckedClassifyNeverHalts := by
  intro s
  obtain ⟨t, h⟩ := exec_classify_total s
  refine ⟨t, h, fun hchken => ?checked, fun hchken => ?unchecked⟩
  case checked =>
    obtain ⟨hcodes, hstatus⟩ := exec_classify_checked h hchken
    refine ⟨?_, ?_, hstatus⟩ <;> exact ne_of_mem_of_not_mem hcodes (by decide)
  case unchecked =>
    have hcodes := exec_classify_unchecked_err h hchken
    refine ⟨?_, ?_, ?_, ?_⟩ <;> exact ne_of_mem_of_not_mem hcodes (by decide)

/-! ### CLASSIFY on a frame it has reported -/

/-- Dispatching a reported frame reports it again: the fields come from FB, and storing the same payload in PB again changes nothing. -/
theorem Reported.dispatch_again {s t : State} (h : Reported s t) : dispatch t = .next t := by
  cases h with
  | data htype hsize =>
    rw [dispatch_of_data (s := State.done
      { ({ s with regs.rtype := s.fbByte 0 } : State).deliverPayload (s.fbBytes 5 s.frameLength.toNat) with
        regs.rid := s.frameId, regs.evt := evtData }) htype hsize]
    have hpb := s.pb.write_write 0 (s.fbBytes 5 s.frameLength.toNat)
    exact congrArg (fun pb => Host.Outcome.next (State.done
      { ({ s with regs.rtype := s.fbByte 0 } : State).deliverPayload (s.fbBytes 5 s.frameLength.toNat) with
        regs.rid := s.frameId, regs.evt := evtData, pb := pb })) hpb
  | ack htype hsize =>
    exact dispatch_of_ack (s := State.done { s with regs.rtype := s.fbByte 0, regs.rid := s.frameId, regs.evt := evtAck })
      htype hsize
  | nack htype hsize =>
    exact dispatch_of_nack (s := State.done
      { s with regs.rtype := s.fbByte 0, regs.rid := s.frameId, regs.rstatus := s.frameLength, regs.evt := evtNack })
      htype hsize

/-- A reported frame is as valid, and its CRC the same, as before it was reported. -/
theorem Reported.validFrame {s t : State} (h : Reported s t) :
    (t.ValidFrame ↔ s.ValidFrame) ∧
      crc32 t.cfg.crc (t.fbBytes 0 (t.regs.flen.toNat - 4)) = crc32 s.cfg.crc (s.fbBytes 0 (s.regs.flen.toNat - 4)) := by
  cases h <;> exact ⟨Iff.rfl, rfl⟩

/-- Settles O21: CLASSIFY comes to its dispatch stage again, CRCCALC as it stands, and dispatches the same frame. -/
theorem classifyRepeatsEvents : Obligations.ClassifyRepeatsEvents := by
  intro s t h hevent
  have hnone : t.regs.evt ≠ evtNone := fun hnone => by
    rw [State.evtValid_of_evtNone hnone] at hevent
    cases hevent
  cases exec_classify_ran h with
  | classifyHalted => exact absurd rfl hnone
  | classifyRejected => exact absurd rfl hnone
  | classifyDispatched hhalt hpasses hdispatch =>
    rename_i u
    have hreported : Reported u t := (dispatch_reported hdispatch).resolve_right hnone
    obtain ⟨hcrccalc, hstatus, hctrl⟩ := hreported.keeps
    have hgate : ¬ t.halt = true := by
      rw [State.halt, hstatus, hpasses.keeps]
      simpa [State.halt] using hhalt
    have hchken : t.chken = s.chken := by
      rw [State.chken, hctrl, hpasses.keeps]
      rfl
    rcases hpasses with ⟨hchecked, hvalid, rfl⟩ | ⟨hunchecked, rfl⟩
    · obtain ⟨hvalid', hcrc⟩ := hreported.validFrame
      have hv : t.validate = (.ok, t) := by
        rw [State.validate_of_validFrame (hvalid'.mpr hvalid), hcrc]
        exact congrArg (fun c => (ErrCode.ok, { t with regs.crccalc := c })) hcrccalc.symm
      rw [exec_classify_accepted hgate (hchken.trans hchecked) hv]
      exact hreported.dispatch_again
    · rw [exec_classify_unchecked hgate (by simp [hchken, hunchecked])]
      exact hreported.dispatch_again

/-! ### The frame kinds -/

/-- A list delivered to PB is what PB holds. -/
theorem State.deliverPayload_pbHolds (s : State) (payload : List Byte) : PbHolds (s.deliverPayload payload) payload := by
  intro a b hb
  obtain ⟨ha, hab⟩ := List.getElem?_eq_some_iff.mp hb
  rw [State.deliverPayload_pbByte, dif_pos ha, hab]

/-- Settles O22: DATA delivers its payload and writes RID, EVT and ERR behind it. -/
theorem dataKindReportsPayload : Obligations.DataKindReportsPayload := by
  intro s id payload hfits
  have hexec : exec (.data id payload) s = _ := exec_data_fits hfits
  obtain ⟨hackreq, hvalid, hkind⟩ := State.event_of_evtData
    (s := State.done { s.deliverPayload payload with regs.rid := id, regs.evt := evtData }) rfl
  exact ⟨_, hexec, s.deliverPayload_pbHolds payload, s.deliverPayload_samePb rfl, s.deliverPayload_sameFb payload,
    exec_sameWorld hexec, hackreq, hvalid, hkind, rfl⟩

/-- Settles O23: the kinds ACK and NACK are one update of the registers each. -/
theorem ackAndNackKindsReport : Obligations.AckAndNackKindsReport := by
  intro s id status
  constructor
  · rw [exec, execAck]
    rfl
  · rw [exec, execNack]
    rfl

/-- Settles O24: the one test of DATA's meaning refuses the term. -/
theorem dataTermBeyondFieldIsRefused : Obligations.DataTermBeyondFieldIsRefused :=
  fun _ _ _ hlong => exec_data_tooLong hlong

end Sys2Proof.Machine

/-! No instruction looks at FB beyond the frame: run on another FB that reads alike there, it does the same (42_decode.md, Common rules of the decoders; 43_check.md, bounds). -/

namespace Sys2Proof.Machine

/-- The same block with other contents in FB. -/
def State.withFb (s : State) (fb : Memory) : State := { s with fb := fb }

/-- Other contents of FB that read as the frame's own, up to FLEN and FB_CAP. -/
def FrameReadsAlike (s : State) (fb : Memory) : Prop :=
  ∀ a, a < s.regs.flen.toNat → a < fbCap → (s.withFb fb).fbByte a = s.fbByte a

section
variable {s t : State} {fb : Memory}

/-! ### Fields and stages -/

theorem FrameReadsAlike.fbBytes (h : FrameReadsAlike s fb) {a n : Nat} (hflen : a + n ≤ s.regs.flen.toNat)
    (hcap : a + n ≤ fbCap) : (s.withFb fb).fbBytes a n = s.fbBytes a n :=
  State.fbBytes_congr fun i hi => h (a + i) (by omega) (by omega)

theorem FrameReadsAlike.frameBytes (h : FrameReadsAlike s fb) : (s.withFb fb).frameBytes = s.frameBytes :=
  h.fbBytes (n := min s.regs.flen.toNat fbCap) (by omega) (by omega)

theorem FrameReadsAlike.typeByte (h : FrameReadsAlike s fb) (hflen : 1 ≤ s.regs.flen.toNat) :
    (s.withFb fb).fbByte 0 = s.fbByte 0 :=
  h 0 (by omega) (by decide)

theorem FrameReadsAlike.frameId (h : FrameReadsAlike s fb) (hflen : 3 ≤ s.regs.flen.toNat) :
    (s.withFb fb).frameId = s.frameId := by
  rw [State.frameId, State.frameId, h 1 (by omega) (by decide), h 2 (by omega) (by decide)]

theorem FrameReadsAlike.frameLength (h : FrameReadsAlike s fb) (hflen : 5 ≤ s.regs.flen.toNat) :
    (s.withFb fb).frameLength = s.frameLength := by
  rw [State.frameLength, State.frameLength, h 3 (by omega) (by decide), h 4 (by omega) (by decide)]

/-- The declared payload, when FLEN has room for it, is in FB. -/
theorem FrameReadsAlike.payload (h : FrameReadsAlike s fb) (hflen : 5 + s.frameLength.toNat ≤ s.regs.flen.toNat) :
    (s.withFb fb).fbBytes 5 s.frameLength.toNat = s.fbBytes 5 s.frameLength.toNat :=
  h.fbBytes hflen (by have := s.frameLength.isLt; simp only [fbCap]; omega)

theorem FrameReadsAlike.frameTrailer (h : FrameReadsAlike s fb) (hmin : 4 ≤ s.regs.flen.toNat)
    (hcap : s.regs.flen.toNat ≤ fbCap) :
    (s.withFb fb).frameTrailer s.regs.flen.toNat = s.frameTrailer s.regs.flen.toNat := by
  simp only [State.frameTrailer]
  rw [h _ (by omega) (by omega), h _ (by omega) (by omega), h _ (by omega) (by omega), h _ (by omega) (by omega)]

/-- A frame whose declared length is its length ends inside FB. -/
theorem State.flen_le_fbCap (hlength : s.frameLength.toNat + 9 = s.regs.flen.toNat) : s.regs.flen.toNat ≤ fbCap := by
  have := s.frameLength.isLt
  simp only [fbCap]
  omega

theorem FrameReadsAlike.validFrame (h : FrameReadsAlike s fb) (hvalid : s.ValidFrame) : (s.withFb fb).ValidFrame := by
  obtain ⟨hmin, htype, hlength, hsum⟩ := hvalid
  have hcap := State.flen_le_fbCap hlength
  refine ⟨hmin, ?_, ?_, ?_⟩
  · rwa [h.typeByte (by omega)]
  · rwa [h.frameLength (by omega)]
  · refine (congrArg (crc32 s.cfg.crc) (h.fbBytes (n := s.regs.flen.toNat - 4) (by omega) (by omega))).trans (hsum.trans ?_)
    exact (h.frameTrailer (by omega) hcap).symm

/-- CHECK's tests give the same verdict and write the same CRCCALC. -/
theorem FrameReadsAlike.validate (h : FrameReadsAlike s fb) :
    (s.withFb fb).validate = (s.validate.1, s.validate.2.withFb fb) := by
  rcases s.validate_cases with ⟨hshort, hv⟩ | ⟨hmin, htype, hv⟩ | ⟨hmin, htype, hlength, hv⟩ |
    ⟨hmin, htype, hlength, hsum, hv⟩ | ⟨hmin, htype, hlength, hsum, hv⟩ <;> rw [hv]
  · exact State.validate_of_short (s := s.withFb fb) hshort
  all_goals rw [← h.typeByte (by omega)] at htype
  · exact State.validate_of_badType (s := s.withFb fb) hmin htype
  all_goals rw [← h.frameLength (by omega)] at hlength
  · exact State.validate_of_badLength (s := s.withFb fb) hmin htype hlength
  all_goals
    have hcap : s.regs.flen.toNat ≤ fbCap := State.flen_le_fbCap (s := s.withFb fb) hlength
    have hbytes := h.fbBytes (a := 0) (n := s.regs.flen.toNat - 4) (by omega) (by omega)
    rw [← hbytes, ← h.frameTrailer (by omega) hcap] at hsum
    rw [← hbytes]
  · exact State.validate_of_badSum (s := s.withFb fb) hmin htype hlength hsum
  · exact State.validate_of_validFrame (s := s.withFb fb) ⟨hmin, htype, hlength, hsum⟩

theorem State.dispatchFail_withFb (s : State) (fb : Memory) (e : ErrCode) :
    (s.withFb fb).dispatchFail e = (s.dispatchFail e).withFb fb := by
  rw [State.dispatchFail_eq, State.dispatchFail_eq]
  rfl

theorem dispatch_of_empty (h : s.regs.flen.toNat < 1) : dispatch s = .next (s.dispatchFail .truncated) := by
  rw [dispatch, if_pos h]

theorem dispatch_of_nonempty (h : 1 ≤ s.regs.flen.toNat) :
    dispatch s = runFrame { s with regs.rtype := s.fbByte 0 } (decodeFrame s.frameBytes) := by
  rw [dispatch, if_neg (not_lt.mpr h)]

/-- Running a decoded frame does not look at FB. -/
theorem runFrame_withFb {f : Except FrameError Frame} (h : runFrame s f = .next t) :
    runFrame (s.withFb fb) f = .next (t.withFb fb) := by
  match f with
  | .ok (.data id payload) =>
    rw [runFrame, execData] at h
    rw [runFrame, execData]
    split at h <;> cases h
    rw [if_neg (by assumption)]
    rfl
  | .ok (.ack id) | .ok (.nack id status) =>
    cases h
    rfl
  | .error .unknownType | .error .truncated =>
    cases h
    rw [runFrame, State.dispatchFail_withFb]

theorem FrameReadsAlike.dispatch (h : FrameReadsAlike s fb) (hd : dispatch s = .next t) :
    Machine.dispatch (s.withFb fb) = .next (t.withFb fb) := by
  rcases lt_or_ge s.regs.flen.toNat 1 with hempty | hlen
  · rw [dispatch_of_empty hempty] at hd
    cases hd
    rw [dispatch_of_empty (s := s.withFb fb) hempty, State.dispatchFail_withFb]
  · rw [dispatch_of_nonempty hlen] at hd
    rw [dispatch_of_nonempty (s := s.withFb fb) hlen, h.frameBytes, h.typeByte hlen]
    exact runFrame_withFb hd

theorem Passes.frameReadsAlike {u : State} (hpasses : Passes s u) (h : FrameReadsAlike s fb) : FrameReadsAlike u fb := by
  rw [hpasses.keeps]
  exact h

theorem FrameReadsAlike.classify (h : FrameReadsAlike s fb) (hexec : exec .classify s = .next t) :
    exec .classify (s.withFb fb) = .next (t.withFb fb) := by
  cases exec_classify_ran hexec with
  | classifyHalted hhalt => exact exec_classify_halted (s := s.withFb fb) hhalt
  | classifyRejected hhalt hchken hfailed =>
    exact exec_classify_rejected (s := s.withFb fb) (by rw [show (s.withFb fb).halt = false from hhalt]; decide) hchken
      h.validate hfailed
  | classifyDispatched hhalt hpasses hdispatch =>
    have hgate : ¬ (s.withFb fb).halt = true := by rw [show (s.withFb fb).halt = false from hhalt]; decide
    have hd := (hpasses.frameReadsAlike h).dispatch hdispatch
    rcases hpasses with ⟨hchecked, hvalid, hu⟩ | ⟨hunchecked, hu⟩ <;> rw [hu] at hd
    · have hv := h.validate
      rw [State.validate_of_validFrame hvalid] at hv
      exact (exec_classify_accepted (s := s.withFb fb) hgate hchecked hv).trans hd
    · exact (exec_classify_unchecked (s := s.withFb fb) hgate
        (by rw [show (s.withFb fb).chken = false from hunchecked]; decide)).trans hd

end

/-! ### Every instruction -/

/-- Either instruction and outcome build the same frame, or the outcome is the old one with the other FB. -/
theorem FrameReadsAlike.exec {i : Instr} {s t : State} {fb : Memory} (h : FrameReadsAlike s fb)
    (hexec : exec i s = .next t) :
    (∃ covered, t = s.buildFrame covered ∧ Machine.exec i (s.withFb fb) = .next ((s.withFb fb).buildFrame covered)) ∨
    (t.fb = s.fb ∧ Machine.exec i (s.withFb fb) = .next (t.withFb fb)) := by
  cases exec_ran hexec with
  | encData hfits => exact .inl ⟨_, rfl, exec_encData_fits (s := s.withFb fb) hfits⟩
  | encAck => exact .inl ⟨_, rfl, exec_encAck (s.withFb fb)⟩
  | encNack => exact .inl ⟨_, rfl, exec_encNack (s.withFb fb)⟩
  | encDataTooLong hlong => exact .inr ⟨rfl, exec_encData_tooLong (s := s.withFb fb) hlong⟩
  | decTypeTruncated hshort => exact .inr ⟨rfl, exec_decType_truncated (s := s.withFb fb) hshort⟩
  | decType hthere =>
    refine .inr ⟨rfl, (exec_decType_reads (s := s.withFb fb) hthere).trans ?_⟩
    rw [h.typeByte hthere]
    rfl
  | decIdTruncated hshort => exact .inr ⟨rfl, exec_decId_truncated (s := s.withFb fb) hshort⟩
  | decId hthere =>
    refine .inr ⟨rfl, (exec_decId_reads (s := s.withFb fb) hthere).trans ?_⟩
    rw [h.frameId hthere]
    rfl
  | decPayloadTruncated hshort =>
    refine .inr ⟨rfl, exec_decPayload_truncated (s := s.withFb fb) ?_⟩
    rcases lt_or_ge s.regs.flen.toNat 5 with hheader | hheader
    · exact .inl hheader
    · rw [h.frameLength hheader]
      exact hshort
  | decPayload hheader hpayload =>
    have hlength := h.frameLength hheader
    have hcopies := exec_decPayload_copies (s := s.withFb fb) hheader (by rw [hlength]; exact hpayload)
    rw [hlength, h.payload hpayload] at hcopies
    exact .inr ⟨rfl, hcopies⟩
  | decStatusTruncated hshort => exact .inr ⟨rfl, exec_decStatus_truncated (s := s.withFb fb) hshort⟩
  | decStatus hthere =>
    refine .inr ⟨rfl, (exec_decStatus_reads (s := s.withFb fb) hthere).trans ?_⟩
    rw [h.frameLength hthere]
    rfl
  | check =>
    refine .inr ⟨?_, (exec_check_of_validate h.validate).trans rfl⟩
    rw [s.validate_keeps]
    rfl
  | classifyHalted | classifyRejected | classifyDispatched =>
    exact .inr ⟨(exec_classify_keeps hexec).1, h.classify hexec⟩
  | srst => exact .inr ⟨rfl, rfl⟩
  | data hfits => exact .inr ⟨rfl, exec_data_fits (s := s.withFb fb) hfits⟩
  | ack | nack => exact .inr ⟨rfl, rfl⟩

/-- States that agree on registers, PB and world differ in FB's contents alone. -/
theorem eq_withFb {s s' : State} (hregs : s'.regs = s.regs) (hpb : s'.pb = s.pb) (hworld : SameWorld s s') :
    s' = s.withFb s'.fb := by
  obtain ⟨hcfg, hepoch, hport, hanswer⟩ := hworld
  rw [State.withFb, ← hregs, ← hpb, ← hcfg, ← hepoch, ← hport, ← hanswer]

/-- Building a frame leaves alike the bytes that were alike: its own it writes, the others it keeps. -/
theorem State.buildFrame_withFb_fbByte (s : State) {fb : Memory} (covered : List Byte) {a : Nat}
    (h : (s.withFb fb).fbByte a = s.fbByte a) :
    ((s.withFb fb).buildFrame covered).fbByte a = (s.buildFrame covered).fbByte a := by
  rw [State.buildFrame_fbByte, State.buildFrame_fbByte]
  by_cases hin : a < (withTrailer s.cfg.crc covered).length
  · rw [dif_pos hin]
    exact dif_pos hin
  · rw [dif_neg hin]
    exact (dif_neg hin).trans h

/-- Settles O14: the second state is the first with another FB; an encoder writes the same frame into both, and any other instruction leaves each FB as it was. -/
theorem commandsReadOnlyTheFrame : Obligations.CommandsReadOnlyTheFrame := by
  intro i s s' t hregs hpb hworld hbytes hexec
  have hs' : s' = s.withFb s'.fb := eq_withFb hregs hpb hworld
  generalize s'.fb = fb at hs'
  subst hs'
  have halike : FrameReadsAlike s fb := hbytes
  obtain ⟨-, hepoch, -⟩ := exec_sameWorld hexec
  rcases halike.exec hexec with ⟨covered, rfl, hexec'⟩ | ⟨hfb, hexec'⟩
  · refine ⟨_, hexec', rfl, rfl, ⟨rfl, rfl, rfl, rfl⟩, fun a ha => ?_⟩
    exact s.buildFrame_withFb_fbByte covered ha
  · refine ⟨_, hexec', rfl, rfl, ⟨rfl, rfl, rfl, rfl⟩, fun a ha => ?_⟩
    have hsame : t.fbByte a = s.fbByte a := by rw [State.fbByte, State.fbByte, hfb, hepoch]
    have hother : (t.withFb fb).fbByte a = (s.withFb fb).fbByte a := by
      rw [State.fbByte, State.fbByte]
      exact congrArg (fun epoch => (fb.read a).getD (Config.fbUnwritten epoch a)) hepoch
    rw [hother, ha, hsame]

end Sys2Proof.Machine

/-! The step: it serves the port in arrival order, keeps the invariant, never stops on served accesses, and leaves the halted state only by a reset (20_memory.md R75, R76; 60_exceptions.md R259). -/

namespace Sys2Proof.Machine

/-! ### Serving the port -/

/-- Settles O41: whatever a step does, it takes the oldest event off the port and touches none behind it. -/
theorem portServesInArrivalOrder : Obligations.PortServesInArrivalOrder := by
  refine ⟨fun s t h => ?_, fun s => step_idle⟩
  rcases step_cases h with ⟨hp, rfl⟩ | ⟨_, _, _, _, hp, rfl⟩ | ⟨_, _, hp, hrun⟩ | ⟨_, _, _, _, hp, hwrite⟩ |
    ⟨_, _, _, _, _, _, hp, _, rfl⟩ | ⟨_, hp, rfl⟩ <;> rw [hp]
  · rfl
  · rfl
  · obtain ⟨-, -, hport, -⟩ := runCommand_sameWorld hrun
    exact hport
  · obtain ⟨-, -, hport, -⟩ := State.writeReg_sameWorld hwrite
    exact hport
  · obtain ⟨-, -, hport, -⟩ := State.writeBuf_sameWorld _ _ _ _
    exact hport
  · rfl

/-- A command of the table has a meaning in every state. -/
theorem exec_command_total {n : Nat} {i : Instr} (hi : (n, i) ∈ commandTable) (s : State) : ∃ t, exec i s = .next t := by
  cases i with
  | encData | decType | decId | decStatus =>
    simp only [exec, execEncData, execDecType, execDecId, execDecStatus]
    split <;> exact ⟨_, rfl⟩
  | decPayload =>
    simp only [exec, execDecPayload]
    split
    · exact ⟨_, rfl⟩
    · split <;> exact ⟨_, rfl⟩
  | encAck | encNack | check | srst => exact ⟨_, rfl⟩
  | classify => exact exec_classify_total s
  | data | ack | nack => simp [commandTable] at hi

theorem runCommand_total (v : Word) (s : State) : ∃ t, runCommand v s = .next t := by
  cases hdecode : decodeCommand v with
  | ok i =>
    rw [runCommand_of_decode hdecode]
    exact exec_command_total (mem_commandTable_of_decode hdecode) s
  | error e => exact ⟨_, by rw [runCommand, hdecode]⟩

theorem State.writeReg_total (s : State) (r : Reg) (v : Word) : ∃ t, s.writeReg r v = .next t := by
  cases r with
  | cmd => exact runCommand_total v s
  | _ => exact ⟨_, rfl⟩

/-- A served event never stops the block. -/
theorem step_served {s : State} {e : PortEvent} {rest : List PortEvent} (hp : s.port = e :: rest) (he : Served e) :
    ∃ t, step s = .next t := by
  rcases he with ⟨r, rfl⟩ | ⟨r, v, rfl⟩ | ⟨b, i, hi, rfl⟩ | ⟨b, i, v, hi, rfl⟩ | rfl
  · exact ⟨_, step_rd hp⟩
  · rw [step_wr hp]
    exact State.writeReg_total _ r v
  · exact ⟨_, step_rb hi hp⟩
  · rw [step_write hp, access_byte hi]
    exact ⟨_, rfl⟩
  · rw [step_serve hp]
    exact ⟨_, rfl⟩

theorem SafeRun.succ {k : Nat} {s t : State} (hstep : step s = .next t) (hrun : SafeRun k t) : SafeRun (k + 1) s := by
  obtain ⟨u, hu⟩ := hrun
  exact ⟨u, (run_succ hstep).trans hu⟩

/-- Settles O40, by induction on the number of steps: the events that wait behind a served one are still served events. -/
theorem servedAccessesNeverStop : Obligations.ServedAccessesNeverStop := by
  intro k
  induction k with
  | zero => exact fun s _ => ⟨s, rfl⟩
  | succ k ih =>
    intro s hserved
    have htotal : ∃ t, step s = .next t := by
      cases hp : s.port with
      | nil => exact ⟨s, step_idle hp⟩
      | cons e rest => exact step_served hp (hserved e (by simp [hp]))
    obtain ⟨t, hstep⟩ := htotal
    refine .succ hstep (ih t fun e he => hserved e ?_)
    rw [portServesInArrivalOrder.1 s t hstep] at he
    exact List.mem_of_mem_tail he

/-! ### The invariant -/

theorem ErrCode.code_le (e : ErrCode) : e.code.toNat ≤ 9 := by
  cases e <;> decide

section
variable {s t : State}

/-- Ending with a code keeps the invariant: ERR takes one of the ten. -/
theorem State.Inv.fail (h : s.Inv) (e : ErrCode) : (s.fail e).Inv := by
  obtain ⟨hfb, hpb, hevt, -, hhalt⟩ := h
  exact ⟨hfb, hpb, hevt, e.code_le, hhalt⟩

/-- No event stands after a rejection, so HALT may be anything. -/
theorem State.Inv.rejectFrame (h : s.Inv) (e : ErrCode) : (s.rejectFrame e).Inv := by
  obtain ⟨hfb, hpb, -, -, -⟩ := h
  exact ⟨hfb, hpb, rfl, e.code_le, fun _ => rfl⟩

theorem State.Inv.dispatchFail (h : s.Inv) (e : ErrCode) : (s.dispatchFail e).Inv := by
  obtain ⟨hfb, hpb, -, -, -⟩ := h
  rw [State.dispatchFail_eq]
  exact ⟨hfb, hpb, rfl, e.code_le, fun _ => rfl⟩

/-- An event may be reported while HALT is 0. -/
theorem State.Inv.report (h : s.Inv) (hhalt : s.halt = false) {v : BitVec 4} (hv : evtLegal v = true) :
    State.Inv { s with regs.evt := v } := by
  obtain ⟨hfb, hpb, -, herr, -⟩ := h
  exact ⟨hfb, hpb, hv, herr, fun hset => absurd (hhalt.symm.trans hset) (by decide)⟩

theorem State.Inv.buildFrame (h : s.Inv) {covered : List Byte} (hcovered : covered.length + 4 ≤ fbCap) :
    (s.buildFrame covered).Inv := by
  obtain ⟨hfb, hpb, hevt, -, hhalt⟩ := h
  exact ⟨Memory.wf_write hfb 0 _ (by rw [withTrailer_length]; omega), hpb, hevt, Nat.zero_le _, hhalt⟩

theorem State.Inv.deliverPayload (h : s.Inv) {payload : List Byte} (hpayload : payload.length ≤ pbCap) :
    (s.deliverPayload payload).Inv := by
  obtain ⟨hfb, hpb, hevt, herr, hhalt⟩ := h
  exact ⟨hfb, Memory.wf_write hpb 0 _ (by omega), hevt, herr, hhalt⟩

theorem State.Inv.writeBuf (h : s.Inv) {b : Buf} {i : Nat} (hi : i < bufCap b) (v : Byte) : (s.writeBuf b i v).Inv := by
  obtain ⟨hfb, hpb, hevt, herr, hhalt⟩ := h
  cases b with
  | fb => exact ⟨Memory.wf_write hfb i [v] hi, hpb, hevt, herr, hhalt⟩
  | pb => exact ⟨hfb, Memory.wf_write hpb i [v] hi, hevt, herr, hhalt⟩

/-- A declared payload fits in PB. -/
theorem State.length_declaredPayload (s : State) : (s.fbBytes 5 s.frameLength.toNat).length ≤ pbCap := by
  have := s.frameLength.isLt
  rw [State.length_fbBytes]
  simp only [pbCap]
  omega

theorem State.Inv.dispatch (h : s.Inv) (hhalt : s.halt = false) (hd : dispatch s = .next t) : t.Inv := by
  rcases dispatch_outcomes s with ⟨_, hd'⟩ | ⟨_, _, _, hd'⟩ | ⟨_, _, _, hd'⟩ | ⟨_, _, _, hd'⟩ | ⟨_, _, hd'⟩ |
    ⟨_, _, hd'⟩ <;> rw [hd'] at hd <;> cases hd
  · exact h.dispatchFail _
  · exact ((h.deliverPayload s.length_declaredPayload).report hhalt rfl).fail .ok
  · exact (h.report hhalt rfl).fail .ok
  · exact (h.report hhalt rfl).fail .ok
  · exact State.Inv.dispatchFail (s := { s with regs.rtype := s.fbByte 0 }) h _
  · exact State.Inv.dispatchFail (s := { s with regs.rtype := s.fbByte 0 }) h _

theorem State.Inv.passes {u : State} (h : s.Inv) (hpasses : Passes s u) : u.Inv := by
  rw [hpasses.keeps]
  exact h

theorem Passes.halt {u : State} (hpasses : Passes s u) : u.halt = s.halt := by
  rw [hpasses.keeps]
  rfl

/-- Every command keeps the invariant. A frame kind does too, but only with HALT 0, under which CLASSIFY runs it. -/
theorem State.Inv.command {n : Nat} {i : Instr} (hi : (n, i) ∈ commandTable) (h : s.Inv) (hexec : exec i s = .next t) :
    t.Inv := by
  cases exec_ran hexec with
  | encDataTooLong | decTypeTruncated | decIdTruncated | decPayloadTruncated | decStatusTruncated => exact h.fail _
  | encData hfits =>
    refine h.buildFrame ?_
    rw [frameCovered_length, State.length_pbBytes]
    simp only [fbCap]
    omega
  | encAck | encNack => exact h.buildFrame (by rw [frameCovered_length]; decide)
  | decType | decId | decStatus => exact h.fail .ok
  | decPayload => exact (h.deliverPayload s.length_declaredPayload).fail .ok
  | check =>
    rw [s.validate_keeps]
    exact h.fail _
  | classifyHalted => exact h.rejectFrame _
  | classifyRejected =>
    rw [s.validate_keeps]
    exact h.rejectFrame _
  | classifyDispatched hhalt hpasses hdispatch =>
    exact (h.passes hpasses).dispatch (hpasses.halt.trans hhalt) hdispatch
  | srst =>
    obtain ⟨hfb, hpb, -, -, -⟩ := h
    exact ⟨hfb, hpb, rfl, Nat.zero_le _, fun _ => rfl⟩
  | data | ack | nack => simp [commandTable] at hi

theorem State.Inv.runCommand {v : Word} (h : s.Inv) (hrun : runCommand v s = .next t) : t.Inv := by
  cases hdecode : decodeCommand v with
  | ok i =>
    rw [runCommand_of_decode hdecode] at hrun
    exact h.command (mem_commandTable_of_decode hdecode) hrun
  | error e =>
    rw [Machine.runCommand, hdecode] at hrun
    cases hrun
    exact h.fail _

end

/-- Settles O44: nothing is written, no event stands and ERR holds the first of the ten codes. -/
theorem resetMeetsInvariant : Obligations.ResetMeetsInvariant := by
  refine ⟨?fb, ?pb, ?evt, ?err, ?halt⟩
  case fb | pb | evt => rfl
  case err => exact Nat.zero_le _
  case halt => exact fun _ => rfl

/-- Settles O45: a command keeps the invariant, and of the other accesses only a buffer write touches what it speaks of, inside the buffer. -/
theorem stepKeepsInvariant : Obligations.StepKeepsInvariant := by
  intro s t hs h
  rcases step_cases h with ⟨_, rfl⟩ | ⟨_, _, _, _, _, rfl⟩ | ⟨_, rest, _, hrun⟩ | ⟨_, _, _, hr, _, hwrite⟩ |
    ⟨b, i, _, _, v, rest, _, haccess, rfl⟩ | ⟨_, _, rfl⟩
  · exact hs
  · exact hs
  · exact State.Inv.runCommand (s := { s with port := rest, answer := .silent }) hs hrun
  · rw [State.writeReg_frame hr hwrite]
    exact hs
  · have hi : i < bufCap b := by
      rcases access_byte_lt haccess with ⟨rfl, hi⟩ | ⟨rfl, hi⟩ <;> exact hi
    exact State.Inv.writeBuf (s := { s with port := rest, answer := .silent }) hs hi _
  · exact resetMeetsInvariant

/-! ### Leaving the halted state -/

/-- Of the instructions only SRST clears HALT: CLASSIFY is stopped by its gate and no other writes STATUS. -/
theorem exec_keeps_halt_set {i : Instr} {s t : State} (hi : i ≠ .srst) (h : exec i s = .next t) (hs : s.halt = true) :
    t.halt = true := by
  cases exec_ran h with
  | srst => exact absurd rfl hi
  | check =>
    rw [s.validate_keeps]
    exact hs
  | classifyRejected hhalt | classifyDispatched hhalt =>
    rw [hs] at hhalt
    cases hhalt
  | _ => exact hs

/-- Settles O26: a step that neither writes CMD nor resets keeps STATUS, and of the commands only SRST clears HALT. -/
theorem haltLeftOnlyByReset : Obligations.HaltLeftOnlyByReset := by
  intro s t h hs ht
  by_cases hcmd : ∃ v rest, s.port = commandWrite v :: rest
  · obtain ⟨v, rest, hport⟩ := hcmd
    rw [step_command hport] at h
    cases hdecode : decodeCommand v with
    | error e =>
      rw [runCommand, hdecode] at h
      cases h
      exact absurd (hs.symm.trans ht) (by decide)
    | ok i =>
      rw [runCommand_of_decode hdecode] at h
      by_cases hi : i = .srst
      · subst hi
        have hcode : v.toNat % 256 = 10 := by simpa [commandTable] using mem_commandTable_of_decode hdecode
        rw [exec_srst] at h
        cases h
        exact ⟨.inl ⟨v, rest, hport, hcode⟩, rfl⟩
      · exact absurd (ht.symm.trans (exec_keeps_halt_set hi h hs)) (by decide)
  by_cases hreset : ∃ rest, s.port = .hardReset :: rest
  · obtain ⟨rest, hport⟩ := hreset
    rw [step_serve hport] at h
    cases h
    exact ⟨.inr ⟨rest, hport⟩, rfl⟩
  · have hregs := step_keeps_results h (fun v rest hport => hcmd ⟨v, rest, hport⟩) fun rest hport => hreset ⟨rest, hport⟩
    have hstatus : t.regs.status = s.regs.status := by rw [hregs]
    rw [State.halt_eq_of_status hstatus, hs] at ht
    cases ht

/-! ### Running what is decoded -/

theorem decode_frame_ok {bytes : List Byte} {i : Instr} (h : decode (.frame bytes) = .ok i) :
    ∃ f, decodeFrame bytes = .ok f ∧ i = f.toInstr := by
  rw [decode] at h
  cases hf : decodeFrame bytes with
  | ok f =>
    rw [hf] at h
    cases h
    exact ⟨f, rfl, rfl⟩
  | error e =>
    rw [hf] at h
    cases h

theorem runFrame_ok (s : State) (f : Frame) : runFrame s (.ok f) = exec f.toInstr s := by
  cases f <;> rfl

/-- The dispatch stage runs the kind that the frame's bytes decode to. -/
theorem dispatch_of_decode {s : State} {i : Instr} (h : decode (.frame s.frameBytes) = .ok i) :
    dispatch s = exec i { s with regs.rtype := s.fbByte 0 } := by
  obtain ⟨f, hf, rfl⟩ := decode_frame_ok h
  have hlen : 1 ≤ s.regs.flen.toNat := by
    by_contra hempty
    rw [State.frameBytes, show min s.regs.flen.toNat fbCap = 0 by omega] at hf
    cases hf
  rw [dispatch_of_nonempty hlen, hf, runFrame_ok]

/-- Settles O33: a write to CMD is a command, and past its gate and its validation CLASSIFY is the dispatch stage. -/
theorem stepRunsDecodedInstruction : Obligations.StepRunsDecodedInstruction := by
  intro s v rest i f hport hdecode
  have hstep : step s = exec i { s with port := rest, answer := .silent } := by
    rw [step_command hport, runCommand_of_decode hdecode]
  refine ⟨hstep, ?_⟩
  rintro rfl hhalt hframe
  have hgate : ¬ ({ s with port := rest, answer := .silent } : State).halt = true := by
    rw [show ({ s with port := rest, answer := .silent } : State).halt = false from hhalt]
    decide
  rw [hstep]
  refine ⟨fun hchken => ?unchecked, fun hchken hvalid => ?checked⟩
  case unchecked =>
    rw [exec_classify_unchecked hgate fun hset => absurd (hchken.symm.trans hset) (by decide)]
    exact dispatch_of_decode (s := { s with port := rest, answer := .silent }) hframe
  case checked =>
    rw [exec_classify_accepted hgate hchken (State.validate_of_validFrame hvalid)]
    exact dispatch_of_decode (s := { s with
      port := rest, answer := .silent
      regs.crccalc := crc32 s.cfg.crc (s.fbBytes 0 (s.regs.flen.toNat - 4)) }) hframe

end Sys2Proof.Machine

/-! The host port served from outside: register and buffer writes, the address map, the accesses outside the window, and the values after a reset (10_state.md R42, 20_memory.md R68, R70, 45_control.md R183). -/

namespace Sys2Proof.Machine

/-! ### Register writes -/

/-- A value cut to `n` bits and read back 32 bits wide keeps its low bits. -/
theorem toNat_setWidth_setWidth (v : Word) {n : Nat} (hn : n ≤ 32) : ((v.setWidth n).setWidth 32).toNat = v.toNat % 2 ^ n := by
  rw [BitVec.toNat_setWidth_of_le hn, BitVec.toNat_setWidth]

/-- A write to one register is not seen in another, unless it starts a command. -/
theorem State.writeReg_other {s t : State} {r q : Reg} {v : Word} (hcmd : r ≠ .cmd) (h : s.writeReg r v = .next t)
    (hq : q ≠ r) : t.readReg q = s.readReg q := by
  cases r with
  | cmd => exact absurd rfl hcmd
  | _ =>
    cases h
    cases q <;> first | rfl | exact absurd rfl hq

/-- A writable register takes the low bits that fit, and no byte of a buffer changes. -/
theorem State.writeReg_writable (s : State) {r : Reg} {n : Nat} (v : Word)
    (hr : (r, n) ∈ [(Reg.ctrl, 2), (.txid, 16), (.txstatus, 32), (.flen, 17), (.plen, 17)]) :
    r ≠ .cmd ∧ ∃ t, s.writeReg r v = .next t ∧ (t.readReg r).toNat = v.toNat % 2 ^ n ∧ SameBuffers s t := by
  simp only [List.mem_cons, Prod.mk.injEq, List.not_mem_nil, or_false] at hr
  rcases hr with ⟨rfl, rfl⟩ | ⟨rfl, rfl⟩ | ⟨rfl, rfl⟩ | ⟨rfl, rfl⟩ | ⟨rfl, rfl⟩
  case inr.inr.inl =>
    have hwhole : v.toNat = v.toNat % 2 ^ 32 := (Nat.mod_eq_of_lt v.isLt).symm
    exact ⟨nofun, _, rfl, hwhole, sameBuffers_of_eq rfl rfl rfl⟩
  all_goals exact ⟨nofun, _, rfl, toNat_setWidth_setWidth v (by decide), sameBuffers_of_eq rfl rfl rfl⟩

/-- Settles O35: the port hands the write to the register, whose law says what is kept. -/
theorem hostWritesKeepLowBits : Obligations.HostWritesKeepLowBits := by
  intro s rest r v w hr hport
  obtain ⟨hcmd, t, hwrite, hvalue, hbuffers⟩ :=
    State.writeReg_writable { s with port := rest, answer := .silent } v hr
  obtain ⟨hcfg, hepoch, hrest, hanswer⟩ := State.writeReg_sameWorld hwrite
  exact ⟨t, (step_wr hport).trans hwrite, hvalue, fun _ hq => (State.writeReg_other hcmd hwrite hq :), hbuffers, hcfg, hepoch, hrest, hanswer⟩

/-! ### Buffer writes -/

/-- A store of one byte, as `State.fbByte_of_write` and `State.pbByte_of_write` put it: that byte at its own index, the old one elsewhere. -/
theorem stored_singleton (i j : Nat) (v old : Byte) :
    (if h : i ≤ j ∧ j < i + [v].length then [v][j - i] else old) = if j = i then v else old := by
  by_cases hj : j = i
  · subst hj
    simp
  · rw [dif_neg (by rw [List.length_singleton]; omega), if_neg hj]

theorem State.writeFb_fbByte (s : State) (i : Nat) (v : Byte) (j : Nat) :
    (s.writeBuf .fb i v).fbByte j = if j = i then v else s.fbByte j :=
  (State.fbByte_of_write (s := s) (t := s.writeBuf .fb i v) (bytes := [v]) rfl rfl j).trans (stored_singleton i j v _)

theorem State.writePb_pbByte (s : State) (i : Nat) (v : Byte) (j : Nat) :
    (s.writeBuf .pb i v).pbByte j = if j = i then v else s.pbByte j :=
  (State.pbByte_of_write (s := s) (t := s.writeBuf .pb i v) (bytes := [v]) rfl rfl j).trans (stored_singleton i j v _)

/-- Read after write, over both buffers. -/
theorem State.readBuf_writeBuf (s : State) (b b' : Buf) (i j : Nat) (v : Byte) :
    (s.writeBuf b i v).readBuf b' j = if (b', j) = (b, i) then v else s.readBuf b' j := by
  cases b <;> cases b' <;> simp only [Prod.mk.injEq, reduceCtorEq, false_and, if_false, true_and]
  case fb.fb => exact s.writeFb_fbByte i v j
  case pb.pb => exact s.writePb_pbByte i v j
  case fb.pb | pb.fb => rfl

theorem step_wb {s : State} {rest : List PortEvent} {b : Buf} {i : Nat} {v : Byte} (hi : i < bufCap b)
    (h : s.port = Script.wb b i v :: rest) :
    step s = .next (State.writeBuf { s with port := rest, answer := .silent } b i v) := by
  rw [step_write h, access_byte hi, serveWrite, BitVec.setWidth_setWidth_of_le _ (by decide), BitVec.setWidth_eq]

/-- Settles O36: the port stores the byte, and a byte stored reads back at its own place alone. -/
theorem bufferByteReadsBack : Obligations.BufferByteReadsBack := by
  intro s rest b i v hi hport
  obtain ⟨hcfg, hepoch, hrest, hanswer⟩ := State.writeBuf_sameWorld { s with port := rest, answer := .silent } b i v
  refine ⟨_, step_wb hi hport, ?same, fun b' j hother => ?other, State.writeBuf_regs _ b i v, hcfg, hepoch, hrest, hanswer⟩
  case same => rw [State.readBuf_writeBuf, if_pos rfl]
  case other =>
    rw [State.readBuf_writeBuf, if_neg hother]
    cases b' <;> rfl

/-! ### The address map -/

/-- Settles O39: the listed offsets are the registers' and the buffers', at which a read of the right width is served. -/
theorem addressMapServes : Obligations.AddressMapServes := by
  intro s rest
  refine ⟨fun o r hr => ?registers, fun i hi => ?fb, fun i hi => ?pb⟩
  case registers =>
    have ho : o = BitVec.ofNat 32 (regOffset r) := by
      simp only [List.mem_cons, Prod.mk.injEq, List.not_mem_nil, or_false] at hr
      rcases hr with ⟨rfl, rfl⟩ | ⟨rfl, rfl⟩ | ⟨rfl, rfl⟩ | ⟨rfl, rfl⟩ | ⟨rfl, rfl⟩ | ⟨rfl, rfl⟩ | ⟨rfl, rfl⟩ |
        ⟨rfl, rfl⟩ | ⟨rfl, rfl⟩ | ⟨rfl, rfl⟩ | ⟨rfl, rfl⟩ | ⟨rfl, rfl⟩ | ⟨rfl, rfl⟩ <;> rfl
    subst ho
    exact step_rd (s := { s with port := Script.rd r :: rest }) rfl
  case fb => exact step_rb (s := { s with port := Script.rb .fb i :: rest }) hi rfl
  case pb => exact step_rb (s := { s with port := Script.rb .pb i :: rest }) hi rfl

theorem access_outside (bits : Nat) {offset : Word} (h : windowSize ≤ offset.toNat) : access bits offset = .outside := by
  rw [access, if_pos h]

/-- Settles O38: the window's size is tested before anything else of an access. -/
theorem outsideWindowFaults : Obligations.OutsideWindowFaults := by
  rintro s rest bits offset v houtside (hport | hport)
  · rw [step_read hport, access_outside bits houtside, serveRead]
  · rw [step_write hport, access_outside bits houtside, serveWrite]

/-! ### Reset -/

/-- Settles O42: SRST's reset values are those of the reset state, in which no byte is written. -/
theorem resetRegisterValues : Obligations.ResetRegisterValues := by
  have hread : ∀ r, State.reset.readReg r = if r = .ctrl then 3#32 else 0#32 := State.resetRegisters_readReg State.reset
  exact ⟨hread .ctrl, fun r hr => (hread r).trans (if_neg hr), fun _ => rfl, fun _ => rfl⟩

/-- Settles O43: `hardReset` is the reset state but for the parameters, the events that wait and the next `epoch`. -/
theorem hardResetRestoresReset : Obligations.HardResetRestoresReset := by
  intro s rest hport
  rw [step_serve hport]
  rfl

end Sys2Proof.Machine

/-! The codes of 30_encoding.md: decoding what was encoded gives it back, and what decodes is well formed. -/

namespace Sys2Proof.Machine

/-! ### Decoding an encoded instruction -/

/-- An encoded frame's first bytes are the header's, whatever follows. -/
theorem withTrailer_frameCovered (p : CrcParams) (type : Byte) (id field : Half) (payload : List Byte) :
    ∃ trailer, withTrailer p (frameCovered type id field payload) =
      type :: id.extractLsb' 8 8 :: id.extractLsb' 0 8 :: field.extractLsb' 8 8 :: field.extractLsb' 0 8 ::
        (payload ++ trailer) :=
  ⟨bytesLe32 (crc32 p (frameCovered type id field payload)), rfl⟩

/-- A DATA frame with the right length field decodes to its id and payload; the trailer is not read. -/
theorem decodeFrame_encodedData (p : CrcParams) (id : Half) {payload : List Byte} (h : payload.length ≤ maxPayload) :
    decodeFrame (withTrailer p (frameCovered 0x00#8 id (BitVec.ofNat 16 payload.length) payload)) =
      .ok (.data id payload) := by
  have hlength : (BitVec.ofNat 16 payload.length).toNat = payload.length := by
    rw [BitVec.toNat_ofNat, Nat.mod_eq_of_lt (Nat.lt_succ_of_le h)]
  obtain ⟨trailer, hbytes⟩ := withTrailer_frameCovered p 0x00#8 id (BitVec.ofNat 16 payload.length) payload
  rw [hbytes, decodeFrame]
  show decodeDataFields _ = _
  rw [decodeDataFields, be16_extract, be16_extract, hlength, if_pos (by rw [List.length_append]; omega),
    List.take_left]

theorem decodeFrame_encodedAck (p : CrcParams) (id : Half) :
    decodeFrame (withTrailer p (frameCovered 0x01#8 id 0#16 [])) = .ok (.ack id) := by
  obtain ⟨trailer, hbytes⟩ := withTrailer_frameCovered p 0x01#8 id 0#16 []
  rw [hbytes, decodeFrame]
  show decodeAckFields _ = _
  rw [decodeAckFields, be16_extract]

theorem decodeFrame_encodedNack (p : CrcParams) (id status : Half) :
    decodeFrame (withTrailer p (frameCovered 0x02#8 id status [])) = .ok (.nack id status) := by
  obtain ⟨trailer, hbytes⟩ := withTrailer_frameCovered p 0x02#8 id status []
  rw [hbytes, decodeFrame]
  show decodeNackFields _ = _
  rw [decodeNackFields, be16_extract, be16_extract]

theorem decode_frame_of_ok {bytes : List Byte} {f : Frame} (h : decodeFrame bytes = .ok f) :
    decode (.frame bytes) = .ok f.toInstr := by
  rw [decode, h]

/-- Settles O47: a command's value is its own row of the table, and a frame's fields stand where the decoder reads them. -/
theorem decodeEncodeRoundTrip : Obligations.DecodeEncodeRoundTrip := by
  intro p i hwf
  cases i with
  | data id payload => exact decode_frame_of_ok (decodeFrame_encodedData p id (by simpa [Instr.wellFormed] using hwf))
  | ack id => exact decode_frame_of_ok (decodeFrame_encodedAck p id)
  | nack id status => exact decode_frame_of_ok (decodeFrame_encodedNack p id status)
  | _ => rfl

/-- The encoder gives a command its code of the table. -/
theorem encode_command (p : CrcParams) {n : Nat} {i : Instr} (hi : (n, i) ∈ commandTable) :
    encode p i = .command (BitVec.ofNat 32 n) := by
  simp only [commandTable, List.mem_cons, Prod.mk.injEq, List.not_mem_nil, or_false] at hi
  rcases hi with ⟨rfl, rfl⟩ | ⟨rfl, rfl⟩ | ⟨rfl, rfl⟩ | ⟨rfl, rfl⟩ | ⟨rfl, rfl⟩ | ⟨rfl, rfl⟩ | ⟨rfl, rfl⟩ |
    ⟨rfl, rfl⟩ | ⟨rfl, rfl⟩ | ⟨rfl, rfl⟩ <;> rfl

/-- Masking with 0xFF keeps bits [7:0]. -/
theorem and_lowByte (w : Word) : w &&& 0xFF#32 = BitVec.ofNat 32 (w.toNat % 256) := by
  apply BitVec.eq_of_toNat_eq
  have hmask : w.toNat &&& 0xFF = w.toNat % 256 := Nat.and_two_pow_sub_one_eq_mod w.toNat 8
  have hlow : w.toNat % 256 < 2 ^ 32 := by omega
  rw [BitVec.toNat_and]
  exact hmask.trans (Nat.mod_eq_of_lt hlow).symm

/-- Settles O48: a value that decodes has its low byte in the table, and that byte is the code the encoder gives. -/
theorem commandDecodingIsInvertible : Obligations.CommandDecodingIsInvertible := by
  intro p w i hdecode
  rw [and_lowByte, encode_command p (mem_commandTable_of_decode hdecode)]

/-- Settles O49: only a DATA frame has an operand that could be out of range, and its length field bounds it. -/
theorem decodedInstructionsAreWellFormed : Obligations.DecodedInstructionsAreWellFormed := by
  intro c i hdecode
  cases c with
  | command w =>
    have hi := mem_commandTable_of_decode hdecode
    cases i with
    | data => simp [commandTable] at hi
    | _ => rfl
  | frame bytes =>
    obtain ⟨f, hf, rfl⟩ := decode_frame_ok hdecode
    cases f with
    | data id payload => exact decide_eq_true (decodeFrame_payload_le hf)
    | ack | nack => rfl

theorem decodeFrame_unknownType {t : Byte} (rest : List Byte) (ht : 2 < t.toNat) :
    decodeFrame (t :: rest) = .error .unknownType := by
  rw [decodeFrame]
  split
  case h_4 => rfl
  all_goals omega

/-- Settles O51: a type byte above 2 is rejected before anything else is read, and a frame that decodes is of the kind its type byte names. -/
theorem frameTypeByteSelectsKind : Obligations.FrameTypeByteSelectsKind := by
  intro t rest
  refine ⟨fun ht => ?unknown, fun i hdecode => ?kinds⟩
  case unknown => rw [decode, decodeFrame_unknownType rest ht]
  case kinds =>
    obtain ⟨f, hf, rfl⟩ := decode_frame_ok hdecode
    rcases decodeFrame_ok hf with ⟨_, _, _, _, _, hbytes, _, rfl⟩ | ⟨_, _, _, hbytes, rfl⟩ |
      ⟨_, _, _, _, _, hbytes, rfl⟩ <;> cases hbytes
    · exact .inl ⟨rfl, _, _, rfl⟩
    · exact .inr (.inl ⟨rfl, _, rfl⟩)
    · exact .inr (.inr ⟨rfl, _, _, rfl⟩)

/-- Settles O52: closed words and frames, which the decoder evaluates. -/
theorem writtenOutWordsDecode : Obligations.WrittenOutWordsDecode := ⟨rfl, rfl, rfl, rfl, rfl, rfl⟩

end Sys2Proof.Machine

/-! The CRC: its two forms are one function read in opposite bit orders (40_crc.md R121), and a single replaced byte always changes it, so that CHECK detects any tampered byte (43_check.md R156). -/

namespace Sys2Proof.Machine

/-! ### Reversing a register -/

theorem reverse32_getLsbD (w : Word) {i : Nat} (hi : i < 32) : (reverse32 w).getLsbD i = w.getLsbD (31 - i) := by
  rw [reverse32, BitVec.getLsbD_reverse, BitVec.getMsbD_eq_getLsbD, decide_eq_true hi, Bool.true_and]

theorem reverse8_getLsbD (b : Byte) {i : Nat} (hi : i < 8) : (reverse8 b).getLsbD i = b.getLsbD (7 - i) := by
  rw [reverse8, BitVec.getLsbD_reverse, BitVec.getMsbD_eq_getLsbD, decide_eq_true hi, Bool.true_and]

theorem reverse32_injective : Function.Injective reverse32 :=
  Function.LeftInverse.injective (g := reverse32) fun _ => BitVec.reverse_reverse_eq

theorem reverse8_injective : Function.Injective reverse8 :=
  Function.LeftInverse.injective (g := reverse8) fun _ => BitVec.reverse_reverse_eq

theorem reverse32_xor (v w : Word) : reverse32 (v ^^^ w) = reverse32 v ^^^ reverse32 w := by
  apply BitVec.eq_of_getLsbD_eq
  intro i hi
  simp only [BitVec.getLsbD_xor, reverse32_getLsbD _ hi]

/-- A left shift, reversed, is a right shift. -/
theorem reverse32_shiftLeft_one (w : Word) : reverse32 (w <<< 1) = reverse32 w >>> 1 := by
  apply BitVec.eq_of_getLsbD_eq
  intro i hi
  rw [reverse32_getLsbD _ hi, BitVec.getLsbD_shiftLeft, BitVec.getLsbD_ushiftRight]
  rcases Nat.lt_or_ge i 31 with hlow | hlast
  · rw [reverse32_getLsbD _ (by omega), show 31 - (1 + i) = 31 - i - 1 by omega]
    simp [show 31 - i < 32 by omega, show ¬ 31 - i = 0 by omega]
  · rw [BitVec.getLsbD_of_ge _ (1 + i) (by omega)]
    simp [show 31 - i = 0 by omega]

/-- A reflected message byte in the register's top byte, reversed, is the byte itself at the bottom. -/
theorem reverse32_topByte (b : Byte) : reverse32 ((reverse8 b).setWidth 32 <<< 24) = b.setWidth 32 := by
  apply BitVec.eq_of_getLsbD_eq
  intro i hi
  rw [reverse32_getLsbD _ hi, BitVec.getLsbD_shiftLeft, BitVec.getLsbD_setWidth, BitVec.getLsbD_setWidth]
  rcases Nat.lt_or_ge i 8 with hlow | hhigh
  · rw [reverse8_getLsbD _ (by omega), show 7 - (31 - i - 24) = i by omega]
    simp [hi, show 31 - i < 32 by omega, show ¬ 31 - i < 24 by omega, show 31 - i - 24 < 32 by omega]
  · rw [BitVec.getLsbD_of_ge b i hhigh]
    simp [show 31 - i < 24 by omega]

/-! ### The two forms -/

/-- The default polynomial, reversed, is the right-shifting form's constant. -/
theorem reverse32_standardPoly : reverse32 CrcParams.standard.poly = 0xEDB88320#32 := by decide +kernel

/-- A round of one form, reversed, is a round of the other. -/
theorem crcRoundRight_reverse32 (w : Word) :
    crcRoundRight (reverse32 w) = reverse32 (crcRound CrcParams.standard.poly w) := by
  rw [crcRoundRight, crcRound, reverse32_getLsbD w (by decide), Nat.sub_zero, apply_ite reverse32, reverse32_xor,
    reverse32_shiftLeft_one, reverse32_standardPoly]

theorem crcByteRight_reverse32 (w : Word) (b : Byte) :
    crcByteRight (reverse32 w) b = reverse32 (crcByte CrcParams.standard w b) := by
  have hrounds : Function.Semiconj reverse32 (crcRound CrcParams.standard.poly) crcRoundRight :=
    fun w => (crcRoundRight_reverse32 w).symm
  have hstart : reverse32 (w ^^^ ((reverse8 b).setWidth 32 <<< 24)) = reverse32 w ^^^ b.setWidth 32 := by
    rw [reverse32_xor, reverse32_topByte]
  rw [crcByteRight, ← hstart]
  exact (hrounds.iterate_right 8 _).symm

/-- Settles O53: byte by byte one form's register is the reverse of the other's, from the first values to the last. -/
theorem crcFormsAgree : Obligations.CrcFormsAgree := by
  intro s
  have hinit : reverse32 CrcParams.standard.init = 0xFFFFFFFF#32 := by decide +kernel
  have hregister : s.foldl crcByteRight 0xFFFFFFFF#32 = reverse32 (crcRegister CrcParams.standard s) := by
    rw [← hinit, crcRegister]
    exact List.foldl_hom reverse32 crcByteRight_reverse32
  rw [crc32_eq, crc32Right, hregister]
  rfl

/-- Settles O54: closed messages, which the kernel evaluates. -/
theorem crcKnownValues : Obligations.CrcKnownValues := by
  unfold Obligations.CrcKnownValues
  decide +kernel

/-! ### One replaced byte -/

/-- Bit `i` of a round's result: the bit below it, and the polynomial's bit if the top bit was shifted out. -/
theorem crcRound_getLsbD (poly w : Word) {i : Nat} (hi : i < 32) :
    (crcRound poly w).getLsbD i = ((!decide (i < 1) && w.getLsbD (i - 1)) ^^ (w.getLsbD 31 && poly.getLsbD i)) := by
  rw [crcRound]
  cases w.getLsbD 31 with
  | false => rw [if_neg nofun, BitVec.getLsbD_shiftLeft, decide_eq_true hi, Bool.true_and, Bool.false_and, Bool.xor_false]
  | true =>
    rw [if_pos rfl, BitVec.getLsbD_xor, BitVec.getLsbD_shiftLeft, decide_eq_true hi, Bool.true_and, Bool.true_and]

/-- With an odd polynomial a round loses nothing: bit 0 of the result tells which bit was shifted out. -/
theorem crcRound_injective {poly : Word} (hpoly : poly.getLsbD 0 = true) : Function.Injective (crcRound poly) := by
  intro v w hvw
  have hbit : ∀ i, i < 32 → ((!decide (i < 1) && v.getLsbD (i - 1)) ^^ (v.getLsbD 31 && poly.getLsbD i)) =
      ((!decide (i < 1) && w.getLsbD (i - 1)) ^^ (w.getLsbD 31 && poly.getLsbD i)) := fun i hi => by
    rw [← crcRound_getLsbD poly v hi, ← crcRound_getLsbD poly w hi, hvw]
  have htop : v.getLsbD 31 = w.getLsbD 31 := by
    simpa only [hpoly, Nat.zero_lt_one, decide_true, Bool.not_true, Bool.false_and, Bool.false_xor, Bool.and_true]
      using hbit 0 (by decide)
  apply BitVec.eq_of_getLsbD_eq
  intro i hi
  rcases Nat.lt_or_ge i 31 with hlow | hlast
  · have hbelow := hbit (i + 1) (by omega)
    rw [htop] at hbelow
    simpa using hbelow
  · rw [show i = 31 by omega, htop]

section
variable {p : CrcParams} (hpoly : p.poly.getLsbD 0 = true)
include hpoly

/-- A byte's effect on the register loses nothing of the register. -/
theorem crcByte_injective (b : Byte) : Function.Injective fun reg => crcByte p reg b := fun _ _ h =>
  (BitVec.xor_left_inj _).mp ((crcRound_injective hpoly).iterate 8 h)

/-- A byte's effect on the register loses nothing of the byte. -/
theorem crcByte_injective_byte (reg : Word) : Function.Injective (crcByte p reg) := by
  intro b c h
  have htop := (BitVec.xor_right_inj _).mp ((crcRound_injective hpoly).iterate 8 h)
  have hbyte : (if p.refin then reverse8 b else b) = if p.refin then reverse8 c else c := by
    apply BitVec.eq_of_getLsbD_eq
    intro i hi
    have hbit := congrArg (fun w : Word => w.getLsbD (i + 24)) htop
    simpa [hi, show i + 24 < 32 by omega, show i < 32 by omega] using hbit
  split at hbyte
  · exact reverse8_injective hbyte
  · exact hbyte

/-- A message's effect on the register loses nothing of the register. -/
theorem foldl_crcByte_injective (s : List Byte) : Function.Injective fun reg => s.foldl (crcByte p) reg := by
  induction s with
  | nil => exact fun _ _ h => h
  | cons b s ih => exact fun _ _ h => crcByte_injective hpoly b (ih h)

omit hpoly in
/-- The final reflection and exclusive-or lose nothing of the register. -/
theorem crcRegister_eq_of_crc32_eq {s t : List Byte} (h : crc32 p s = crc32 p t) : crcRegister p s = crcRegister p t := by
  rw [crc32_eq, crc32_eq, BitVec.xor_left_inj] at h
  split at h
  · exact reverse32_injective h
  · exact h

/-- Two messages that differ in one byte have different CRCs. -/
theorem crc32_set_injective {s : List Byte} {i : Nat} (hi : i < s.length) : Function.Injective fun b => crc32 p (s.set i b) := by
  intro b c h
  have hregister := crcRegister_eq_of_crc32_eq h
  simp only [List.set_eq_take_append_cons_drop, if_pos hi, crcRegister_append, List.foldl_cons] at hregister
  exact crcByte_injective_byte hpoly _ (foldl_crcByte_injective hpoly _ hregister)

end

/-! ### One replaced byte of a frame -/

/-- The frame with its byte `i` replaced, as a list. -/
theorem State.writeFb_fbBytes (s : State) (i : Nat) (b : Byte) (n : Nat) : (s.writeBuf .fb i b).fbBytes 0 n = (s.fbBytes 0 n).set i b := by
  apply List.ext_getElem
  · simp
  · intro j _ _
    rw [State.getElem_fbBytes, State.writeFb_fbByte, List.getElem_set, State.getElem_fbBytes, Nat.zero_add]
    simp only [eq_comm]

/-- Frames with the same length field have its two bytes in common. -/
theorem State.fbByte_eq_of_frameLength_eq {s t : State} (h : t.frameLength = s.frameLength) {i : Nat} (hi : i = 3 ∨ i = 4) :
    t.fbByte i = s.fbByte i := by
  have hnat := congrArg BitVec.toNat h
  rw [State.frameLength_toNat, State.frameLength_toNat] at hnat
  have := (t.fbByte 4).isLt
  have := (s.fbByte 4).isLt
  apply BitVec.eq_of_toNat_eq
  rcases hi with rfl | rfl <;> omega

/-- Frames with the same trailer have its four bytes in common. -/
theorem State.fbByte_eq_of_frameTrailer_eq {s t : State} {n : Nat} (h : t.frameTrailer n = s.frameTrailer n) {i : Nat}
    (hi : i = n - 4 ∨ i = n - 3 ∨ i = n - 2 ∨ i = n - 1) : t.fbByte i = s.fbByte i := by
  have hnat := congrArg BitVec.toNat h
  rw [State.frameTrailer_toNat, State.frameTrailer_toNat] at hnat
  have := (t.fbByte (n - 4)).isLt
  have := (s.fbByte (n - 4)).isLt
  have := (t.fbByte (n - 3)).isLt
  have := (s.fbByte (n - 3)).isLt
  have := (t.fbByte (n - 2)).isLt
  have := (s.fbByte (n - 2)).isLt
  apply BitVec.eq_of_toNat_eq
  rcases hi with rfl | rfl | rfl | rfl <;> omega

/-- A byte replaced outside the trailer changes the CRC, and one replaced in the trailer the received one, so that they no longer agree. -/
theorem State.writeFb_checksum_ne {s : State} {i : Nat} {b : Byte} {n : Nat} (hpoly : s.cfg.crc.poly.getLsbD 0 = true)
    (hsum : crc32 s.cfg.crc (s.fbBytes 0 (n - 4)) = s.frameTrailer n) (hi : i < n) (hmin : 4 ≤ n) (hb : b ≠ s.fbByte i) :
    crc32 s.cfg.crc ((s.writeBuf .fb i b).fbBytes 0 (n - 4)) ≠ (s.writeBuf .fb i b).frameTrailer n := by
  intro hsum'
  rw [State.writeFb_fbBytes] at hsum'
  have hbyte := s.writeFb_fbByte i b
  rcases Nat.lt_or_ge i (n - 4) with hcovered | htrailer
  · have hsame : (s.writeBuf .fb i b).frameTrailer n = s.frameTrailer n := by
      rw [State.frameTrailer, hbyte, hbyte, hbyte, hbyte, if_neg (by omega), if_neg (by omega), if_neg (by omega),
        if_neg (by omega)]
      rfl
    have hlength : i < (s.fbBytes 0 (n - 4)).length := by rwa [State.length_fbBytes]
    have hself : (s.fbBytes 0 (n - 4)).set i (s.fbByte i) = s.fbBytes 0 (n - 4) := by
      have hget := s.getElem_fbBytes 0 (n - 4) i hlength
      rw [Nat.zero_add] at hget
      rw [← hget, List.set_getElem_self]
    refine hb (crc32_set_injective hpoly hlength ?_)
    simp only [hself]
    rw [hsum', hsame, hsum]
  · rw [List.set_eq_of_length_le (by rwa [State.length_fbBytes]), hsum] at hsum'
    have hsame := State.fbByte_eq_of_frameTrailer_eq hsum'.symm (i := i) (by omega)
    rw [hbyte, if_pos rfl] at hsame
    exact hb hsame

/-- Settles O17: a replaced byte fails the test that reads it, and one that no earlier test rejects fails the checksum. -/
theorem tamperedByteIsDetected : Obligations.TamperedByteIsDetected := by
  intro s i b hcrc hvalid hi hb
  obtain ⟨hmin, htype, hlength, hsum⟩ := hvalid
  have hbyte := s.writeFb_fbByte i b
  by_cases hbadType : i = 0 ∧ 2 < b.toNat
  · obtain ⟨rfl, hlarge⟩ := hbadType
    have htype' : 2 < ((s.writeBuf .fb 0 b).fbByte 0).toNat := by rwa [hbyte, if_pos rfl]
    exact ⟨_, exec_check_of_validate (State.validate_of_badType (s := s.writeBuf .fb 0 b) hmin htype'),
      by rw [if_pos ⟨rfl, hlarge⟩]; rfl⟩
  have htype' : ((s.writeBuf .fb i b).fbByte 0).toNat ≤ 2 := by
    rw [hbyte]
    split
    · omega
    · exact htype
  by_cases hfield : i = 3 ∨ i = 4
  · have hlength' : (s.writeBuf .fb i b).frameLength.toNat + 9 ≠ s.regs.flen.toNat := fun heq => by
      have hsame := State.fbByte_eq_of_frameLength_eq (s := s) (t := s.writeBuf .fb i b)
        (BitVec.eq_of_toNat_eq (by omega)) hfield
      rw [hbyte, if_pos rfl] at hsame
      exact hb hsame
    exact ⟨_, exec_check_of_validate (State.validate_of_badLength (s := s.writeBuf .fb i b) hmin htype' hlength'),
      by rw [if_neg hbadType, if_pos hfield]; rfl⟩
  · have hlength' : (s.writeBuf .fb i b).frameLength.toNat + 9 = s.regs.flen.toNat := by
      rw [State.frameLength, hbyte, hbyte, if_neg (by omega), if_neg (by omega)]
      exact hlength
    have hsum' := State.writeFb_checksum_ne (by rw [hcrc]; decide) hsum hi (by omega) hb
    exact ⟨_, exec_check_of_validate (State.validate_of_badSum (s := s.writeBuf .fb i b) hmin htype' hlength' hsum'),
      by rw [if_neg hbadType, if_neg hfield]; rfl⟩

end Sys2Proof.Machine
